-- ==== Sys2Proof/Word.lean ====
section
/-! DEFINITION. The word types of the block (00_scope.md R5, R6): registers, FIFO words, header and
argument words are 32 bits; a sample is one byte (`SAMPLE_WIDTH = 8`, fixed by R5). -/

namespace Sys2Proof

/-- A register word, a FIFO word, a header or argument word (R6, R60). -/
abbrev Word := BitVec 32

/-- One sample, one byte of the host byte stream (R5, R65). -/
abbrev Byte := BitVec 8

/-- A host process. The spec names no identifiers (R195); the model numbers them (log 7). -/
abbrev ProcId := Nat

end Sys2Proof
end

