-- ==== Sys2Proof/Syntax.lean ====
section
/-! DEFINITION. The thirteen host operations (30_encoding.md R62, R63), one constructor per row of
spec/opcode_table.json. An argument word that an operation ignores (R64, R152) is no operand of it. -/

namespace Sys2Proof

/-- A decoded host request. -/
inductive Instr where
  /-- `OPEN` (R130). -/
  | openSession
  /-- `CLOSE` (R131). -/
  | closeSession
  /-- `READ` (R132): the argument word is `maxBytes`. -/
  | read (maxBytes : Word)
  /-- `WRITE` (R133): one sample per byte of the payload. -/
  | write (payload : List Byte)
  /-- `GET_TX_SPACE` (R141). -/
  | getTxSpace
  /-- `GET_RX_COUNT` (R142). -/
  | getRxCount
  /-- `CLR_TX_FIFO` (R143). -/
  | clrTxFifo
  /-- `CLR_RX_FIFO` (R144). -/
  | clrRxFifo
  /-- `SET_EN` (R145): the argument word, 0 or 1 where legal (R151). -/
  | setEn (arg : Word)
  /-- `SET_TX_EN` (R146). -/
  | setTxEn (arg : Word)
  /-- `SET_RX_EN` (R147). -/
  | setRxEn (arg : Word)
  /-- `CLR_TX_RING` (R148). -/
  | clrTxRing
  /-- `CLR_RX_RING` (R149). -/
  | clrRxRing
  deriving DecidableEq, Repr

end Sys2Proof
end

