-- ==== Sys2Proof/WellFormed.lean ====
section
/-! DEFINITION. What an instruction must meet to have an encoding. The only check is R71's: the byte count of a
`WRITE` stands in its 32-bit argument word, so the payload has fewer than 2^32 bytes. An enable argument of 2 or
more is well-formed: it decodes to the command, which answers `InvalidArgument` (R151). -/

namespace Sys2Proof

/-- The payload's length fits the argument word (R64, R71). -/
def payloadFits (payload : List Byte) : Bool := decide (payload.length < 4294967296)

/-- The instruction has an encoding (R60, R71). -/
def Instr.wellFormed : Instr → Bool
  | .openSession => true
  | .closeSession => true
  | .read _ => true
  | .write payload => payloadFits payload
  | .getTxSpace => true
  | .getRxCount => true
  | .clrTxFifo => true
  | .clrRxFifo => true
  | .setEn _ => true
  | .setTxEn _ => true
  | .setRxEn _ => true
  | .clrTxRing => true
  | .clrRxRing => true

end Sys2Proof
end

