-- ==== Sys2Proof/Decode.lean ====
section
/-! DEFINITION. Encoding of host requests (30_encoding.md): the request triple (R60), the header's two fields (R61),
the decoder (R68), total on every triple and rejecting by name, then the encoder written from the tables of R62 and
R63, the host's reading of a table word, and the textual syntax of R72 at the level of tokens. -/

namespace Sys2Proof

/-- A host request (R60). -/
structure Request where
  hdr : Word
  arg : Word
  payload : List Byte
  deriving DecidableEq, Repr, Inhabited

/-- Why a request is `Illegal` (R68). Every reason gets the same answer, `InvalidArgument` (R69). -/
inductive Illegal where
  /-- `cls` in 5..15. -/
  | reservedClass
  /-- `cls` in 0..3 with a nonzero `code`. -/
  | nonzeroCode
  /-- `WRITE` with `arg` different from the payload's length. -/
  | lengthMismatch
  /-- `cls = 4` with `code` 9 or more (R150). -/
  | unrecognizedCommand
  deriving DecidableEq, Repr

/-- `cls = hdr[31:28]` (R61). -/
def headerClass (hdr : Word) : BitVec 4 := hdr.extractLsb' 28 4

/-- `code = hdr[27:0]` (R61). -/
def headerCode (hdr : Word) : BitVec 28 := hdr.extractLsb' 0 28

/-- The command with a given code (R63); codes of 9 and more are unrecognized (R150). -/
def decodeCommand (code : Nat) (arg : Word) : Except Illegal Instr :=
  match code with
  | 0 => .ok .getTxSpace
  | 1 => .ok .getRxCount
  | 2 => .ok .clrTxFifo
  | 3 => .ok .clrRxFifo
  | 4 => .ok (.setEn arg)
  | 5 => .ok (.setTxEn arg)
  | 6 => .ok (.setRxEn arg)
  | 7 => .ok .clrTxRing
  | 8 => .ok .clrRxRing
  | _ => .error .unrecognizedCommand

/-- A class other than 4 takes `code = 0` only (R61). -/
def onlyCodeZero (hdr : Word) (i : Except Illegal Instr) : Except Illegal Instr :=
  if headerCode hdr = 0 then i else .error .nonzeroCode

/-- A `WRITE` is well-formed when `arg = len(payload)` (R68, R71). -/
def decodeWrite (arg : Word) (payload : List Byte) : Except Illegal Instr :=
  if arg.toNat = payload.length then .ok (.write payload) else .error .lengthMismatch

/-- The decoder of R68. -/
def decode (r : Request) : Except Illegal Instr :=
  match (headerClass r.hdr).toNat with
  | 0 => onlyCodeZero r.hdr (.ok .openSession)
  | 1 => onlyCodeZero r.hdr (.ok .closeSession)
  | 2 => onlyCodeZero r.hdr (.ok (.read r.arg))
  | 3 => onlyCodeZero r.hdr (decodeWrite r.arg r.payload)
  | 4 => decodeCommand (headerCode r.hdr).toNat r.arg
  | _ => .error .reservedClass

/-- A request with no payload. -/
def plainRequest (hdr arg : Word) : Request := ⟨hdr, arg, []⟩

/-- The encoder: the header column of R62 and R63, `arg = 0` where it is ignored (R72), `arg = len(payload)` for a
`WRITE` (R71). -/
def encode : Instr → Request
  | .openSession => plainRequest 0x00000000#32 0#32
  | .closeSession => plainRequest 0x10000000#32 0#32
  | .read maxBytes => plainRequest 0x20000000#32 maxBytes
  | .write payload => ⟨0x30000000#32, BitVec.ofNat 32 payload.length, payload⟩
  | .getTxSpace => plainRequest 0x40000000#32 0#32
  | .getRxCount => plainRequest 0x40000001#32 0#32
  | .clrTxFifo => plainRequest 0x40000002#32 0#32
  | .clrRxFifo => plainRequest 0x40000003#32 0#32
  | .setEn arg => plainRequest 0x40000004#32 arg
  | .setTxEn arg => plainRequest 0x40000005#32 arg
  | .setRxEn arg => plainRequest 0x40000006#32 arg
  | .clrTxRing => plainRequest 0x40000007#32 0#32
  | .clrRxRing => plainRequest 0x40000008#32 0#32

/-- The request whose bits are `w`, numbered from the least significant bit of `hdr`: `hdr` is bits 31:0, `arg` bits
63:32, and each further byte is a payload byte (log 32). Bits at and above `nbits` are 0. -/
def tableRequest (nbits w : Nat) : Request :=
  let bits := w % 2 ^ nbits
  { hdr := BitVec.ofNat 32 bits
    arg := BitVec.ofNat 32 (bits / 2 ^ 32)
    payload := (List.range ((nbits - 64) / 8)).map fun k => BitVec.ofNat 8 (bits / 2 ^ (64 + 8 * k)) }

/-- The instruction the decoder reads from a word of spec/opcode_table.json. -/
def decodeTableWord (nbits w : Nat) : Option Instr :=
  match decode (tableRequest nbits w) with
  | .ok i => some i
  | .error _ => none

/-! ### Textual syntax (R72), as a mnemonic and its numbers -/

/-- One line of host-program text (R72): the mnemonic and the operand numbers. -/
def Instr.text : Instr → String × List Nat
  | .openSession => ("OPEN", [])
  | .closeSession => ("CLOSE", [])
  | .read maxBytes => ("READ", [maxBytes.toNat])
  | .write payload => ("WRITE", payload.map BitVec.toNat)
  | .getTxSpace => ("GET_TX_SPACE", [])
  | .getRxCount => ("GET_RX_COUNT", [])
  | .clrTxFifo => ("CLR_TX_FIFO", [])
  | .clrRxFifo => ("CLR_RX_FIFO", [])
  | .setEn arg => ("SET_EN", [arg.toNat])
  | .setTxEn arg => ("SET_TX_EN", [arg.toNat])
  | .setRxEn arg => ("SET_RX_EN", [arg.toNat])
  | .clrTxRing => ("CLR_TX_RING", [])
  | .clrRxRing => ("CLR_RX_RING", [])

/-- A number that fits the argument word. -/
def asmWord (n : Nat) : Option Word := if n < 4294967296 then some (BitVec.ofNat 32 n) else none

/-- A payload byte, 0..255 (R72). -/
def asmByte (n : Nat) : Option Byte := if n < 256 then some (BitVec.ofNat 8 n) else none

/-- All of a list of numbers as payload bytes. -/
def asmBytes : List Nat → Option (List Byte)
  | [] => some []
  | n :: rest =>
    match asmByte n, asmBytes rest with
    | some b, some bs => some (b :: bs)
    | _, _ => none

/-- An operation with one number (R72). -/
def asmOne (operands : List Nat) (mk : Word → Instr) : Option Instr :=
  match operands with
  | [n] => (asmWord n).map mk
  | _ => none

/-- An operation with no number (R72). -/
def asmNone (operands : List Nat) (i : Instr) : Option Instr :=
  match operands with
  | [] => some i
  | _ :: _ => none

/-- The instruction of one line of host-program text (R72); none where the line is not of that syntax. -/
def assemble (mnemonic : String) (operands : List Nat) : Option Instr :=
  if mnemonic = "OPEN" then asmNone operands .openSession
  else if mnemonic = "CLOSE" then asmNone operands .closeSession
  else if mnemonic = "READ" then asmOne operands .read
  else if mnemonic = "WRITE" then (asmBytes operands).map .write
  else if mnemonic = "GET_TX_SPACE" then asmNone operands .getTxSpace
  else if mnemonic = "GET_RX_COUNT" then asmNone operands .getRxCount
  else if mnemonic = "CLR_TX_FIFO" then asmNone operands .clrTxFifo
  else if mnemonic = "CLR_RX_FIFO" then asmNone operands .clrRxFifo
  else if mnemonic = "SET_EN" then asmOne operands .setEn
  else if mnemonic = "SET_TX_EN" then asmOne operands .setTxEn
  else if mnemonic = "SET_RX_EN" then asmOne operands .setRxEn
  else if mnemonic = "CLR_TX_RING" then asmNone operands .clrTxRing
  else if mnemonic = "CLR_RX_RING" then asmNone operands .clrRxRing
  else none

end Sys2Proof
end

