-- ==== Sys2Proof/Config.lean ====
section
/-! DEFINITION. The implementation parameters (00_scope.md R4, R5) and the free values of the model (R6 `draw`,
93_implementation_defined.md U6). Parameters never change during a run; State carries them so that a step can read
them (log 1). A free value is an opaque constant with no body: nothing in Lean can evaluate it. -/

namespace Sys2Proof

/-- The two directions (R2, glossary): transmit is host to line, receive is line to host. -/
inductive Direction where
  | transmit
  | receive
  deriving DecidableEq, Repr

/-- An endless line: the samples `Config.freeSample stream k` from `k = next` on (log 19). -/
structure Endless where
  stream : Nat
  next : Nat
  deriving DecidableEq, Repr

/-- The samples still to arrive on the line: those of `known` first, then those of an endless line if there is one, so
that `line_in` is finite or infinite (R4; log 19). -/
structure Line where
  known : List Byte
  endless : Option Endless
  deriving DecidableEq, Repr

/-- The parameters of R4. The OPEN ones (`N_TX`, `N_RX`, `REG_BASE`, the five reset images, `line_in`) have no default
in the spec; the defaults written here for them are those of the model's reference configuration (log 2). -/
structure Config where
  /-- `BATCH_LIMIT`: most samples moved per direction per invocation. -/
  batchLimit : Nat := 64
  /-- `THRESHOLD`: error-counter value at which a direction is shut down. -/
  threshold : Nat := 1000000
  /-- `FRAME_SIZE`: samples per frame. -/
  frameSize : Nat := 160
  /-- `N_TX`: capacity of the transmit ring. OPEN. -/
  nTx : Nat := 200
  /-- `N_RX`: capacity of the receive ring. OPEN. -/
  nRx : Nat := 200
  /-- `HWFIFO_DEPTH`: entries in each hardware FIFO. -/
  hwFifoDepth : Nat := 64
  /-- `TX_READY_LEVEL`. -/
  txReadyLevel : Nat := 1
  /-- `RX_READY_LEVEL`. -/
  rxReadyLevel : Nat := 1
  /-- `COUNTER_MAX`: value at which the error counters saturate. -/
  counterMax : Nat := 4294967295
  /-- `REG_BASE`: base address of the register block. OPEN. -/
  regBase : Nat := 0
  /-- `MODE_INIT`. OPEN. -/
  modeInit : Word := 0
  /-- `RXC_INIT`. OPEN. -/
  rxcInit : Word := 0
  /-- `TXC_INIT`. OPEN. -/
  txcInit : Word := 0
  /-- `DREQ_INIT`. OPEN. -/
  dreqInit : Word := 0
  /-- `GRAY_INIT`. OPEN. -/
  grayInit : Word := 0
  /-- `INIT_OK`: whether register-block acquisition succeeds. -/
  initOk : Bool := true
  /-- `line_in`: the samples arriving on the line, a finite or infinite sequence. OPEN. -/
  lineIn : Line := ⟨[], none⟩
  /-- `CLEAR_LATENCY` in clock cycles: timing only, used by no rule (R215). -/
  clearLatency : Nat := 2
  /-- `SETTLE_DELAY` in clock-cycle equivalents: timing only, used by no rule (R215). -/
  settleDelay : Nat := 2
  deriving DecidableEq, Repr

/-- The constraints R5 puts on the parameters (its two "further constraints" are not required for the rules to have
a meaning and are not part of it). -/
abbrev Config.wf (c : Config) : Prop :=
  1 ≤ c.batchLimit ∧ 1 ≤ c.threshold ∧ c.threshold ≤ c.counterMax ∧
  1 ≤ c.nTx ∧ c.nTx < 4294967295 ∧ 1 ≤ c.nRx ∧ c.nRx < 4294967295 ∧
  1 ≤ c.txReadyLevel ∧ c.txReadyLevel ≤ c.hwFifoDepth ∧
  1 ≤ c.rxReadyLevel ∧ c.rxReadyLevel ≤ c.hwFifoDepth ∧ 1 ≤ c.hwFifoDepth

/-- The configuration of `State.reset`: every default of R4 and, for the OPEN parameters, `N_TX = N_RX = 200` (the
reference configuration `RC` of 95_test_vectors.md), zero images and an empty line. DESIGN CHOICE, unsafe (log 2):
claims about reset are stated for every configuration. -/
def Config.reference : Config := {}

/-- The word a `FifoRead` of an empty `rxfifo` returns at its `n`-th such read (R83: `draw`). -/
opaque Config.freeWord : Nat → Word

/-- The `k`-th sample of an endless line (R4: `line_in` may be infinite, its samples are any values). -/
opaque Config.freeSample : Nat → Nat → Byte

/-- What an unwritten slot of a ring holds after the `n`-th reset event (R18, R32: unspecified; U6: any value). -/
opaque Config.freeSlot : Nat → Direction → Nat → Byte

end Sys2Proof
end

