-- ==== Sys2Proof/Machine/State.lean ====
section
/-! DEFINITION. The state of the block (10_state.md R10) as plain data, with the few fields the model adds: what other
agents' moves are still to come, the record of responses, the held `CLOSE`, the host-side pseudo-operation, and the
counters of the free values. INVENTORY.md lists every field with its rule and reset value. -/

namespace Sys2Proof.Machine

/-- Life-cycle of the block (R31). -/
inductive Power where
  | off
  | ready
  | failed
  deriving DecidableEq, Repr

/-- Storage of one ring: the written slots, as (index, sample) pairs with indices strictly rising. A slot that is not
listed has not been written since reset; it has no value of the state's (R18: unspecified; log 12, 13). -/
abbrev Memory := List Host.Cell

/-- A Circular Sample Buffer (R18): the storage, `head` (next write slot) and `tail` (next read slot). Its capacity is
a parameter. -/
structure Ring where
  slots : Memory
  head : Nat
  tail : Nat
  deriving DecidableEq, Repr

/-- The control position of the Transfer Engine (R26). -/
inductive Phase where
  | idle
  | s2test
  | s2loop
  | s3test
  | s3loop
  | s4
  | s5
  deriving DecidableEq, Repr

/-- `eng` (R26): the phase and the samples moved in the current loop. -/
structure Engine where
  phase : Phase
  i : Nat
  deriving DecidableEq, Repr

/-- The nine registers of the block (R11). -/
inductive RegName where
  | cs
  | fifo
  | mode
  | rxc
  | txc
  | dreq
  | inten
  | intstc
  | gray
  deriving DecidableEq, Repr

/-- Status of a response (R66). `invalidData` and `hardwareFault` are never responses of the block. -/
inductive Status where
  | ok
  | busy
  | wouldBlock
  | invalidArgument
  | invalidData
  | hardwareFault
  deriving DecidableEq, Repr

/-- A host response (R60). -/
structure Response where
  status : Status
  value : Word
  payload : List Byte
  deriving DecidableEq, Repr

/-- The next step of a FIFO clear command (R143, R144); F1 is taken when the command is issued. -/
inductive ClearStep where
  | f2
  | f3
  | f4
  deriving DecidableEq, Repr

/-- Progress of an operation in flight (R27). -/
inductive Progress where
  /-- `READ`: the number of bytes still wanted and the bytes collected so far. -/
  | read (wanted : Nat) (got : List Byte)
  /-- `WRITE`: the payload and the index of the next payload byte. -/
  | write (payload : List Byte) (k : Nat)
  /-- `CLR_TX_FIFO`: the next step and the saved enable. -/
  | clrTx (next : ClearStep) (saved : Bool)
  /-- `CLR_RX_FIFO`: the next step and the saved enable. -/
  | clrRx (next : ClearStep) (saved : Bool)
  deriving DecidableEq, Repr

/-- `hostop` (R27): the operation in flight and the process that issued it. -/
structure HostOp where
  proc : ProcId
  progress : Progress
  deriving DecidableEq, Repr

/-- The pseudo-operations of the Call Session Manager (R160 to R164). R163 gives `writeFrame` exactly `FRAME_SIZE`
samples; any list is taken here (DESIGN CHOICE, log 36). -/
inductive PseudoOp where
  | startSession
  | prefill
  | stopSession
  | writeFrame (samples : List Byte)
  | readFrame
  deriving DecidableEq, Repr

/-- How a pseudo-operation ends. -/
inductive CallResult where
  /-- It has succeeded (`startSession`, `prefill`, `stopSession`, `writeFrame`). -/
  | success
  /-- `readFrame` returns `None` (R164); not a failure. -/
  | noFrame
  /-- `readFrame` returns `Some frame`. -/
  | frame (samples : List Byte)
  /-- It has failed with a status (`Busy`, `WouldBlock`, `InvalidData`). -/
  | failed (status : Status)
  deriving DecidableEq, Repr

/-- The line of a pseudo-operation's expansion that is next (R160 to R164). In `prefillQuery` and `prefillWrite`,
`thenEnable` says whether line 9 of `startSession` follows. -/
inductive CallPos where
  | openDevice
  | clearTxRing
  | clearRxRing
  | clearTxFifo
  | clearRxFifo
  | settleWait
  | enableReceive
  | prefillQuery (thenEnable : Bool)
  | prefillWrite (thenEnable : Bool) (space : Nat)
  | enableTransmit
  | disableReceive
  | disableTransmit
  | closeDevice
  | frameSpace (samples : List Byte)
  | frameWrite (samples : List Byte)
  | frameCount
  | frameRead
  | done (result : CallResult)
  deriving DecidableEq, Repr

/-- A pseudo-operation in progress, or ended with its result at `done` (log 37): the process that runs it, its line, and, while a request of it is on the port, the
number of responses there were when it issued the request. -/
structure CallRun where
  proc : ProcId
  pos : CallPos
  since : Option Nat
  deriving DecidableEq, Repr

/-- A move of one agent or of the environment (R7). -/
inductive Move where
  /-- A host process issues a request. -/
  | issue (proc : ProcId) (request : Request)
  /-- The host operation in flight, or the held `CLOSE`, takes its next step. -/
  | host
  /-- The Transfer Engine takes a step (R110 to R123). -/
  | engine
  /-- `TxTick` (R92). -/
  | txTick
  /-- `RxTick` (R93). -/
  | rxTick
  /-- `ClearTx` (R89). -/
  | clearTx
  /-- `ClearRx` (R89). -/
  | clearRx
  /-- `clockUp` (R165). -/
  | clockUp
  /-- `clockDown` (R165). -/
  | clockDown
  /-- The reset event, driver initialization (R200, R201). -/
  | resetEvent
  /-- Driver teardown (R202). -/
  | teardown
  /-- A process begins a pseudo-operation (R160 to R164). -/
  | beginCall (proc : ProcId) (op : PseudoOp)
  /-- The pseudo-operation in progress takes its next step. -/
  | call
  deriving DecidableEq, Repr, Inhabited

/-- The whole state. -/
structure State where
  /-- The parameters of R4; not state of the block, never changed (log 1). -/
  cfg : Config
  /-- R31. -/
  power : Power
  /-- `CS.EN` (R12). -/
  csEn : Bool
  /-- `CS.RXON` (R12). -/
  csRxon : Bool
  /-- `CS.TXON` (R12). -/
  csTxon : Bool
  /-- `txclr_pending` (R23). -/
  txclrPending : Bool
  /-- `rxclr_pending` (R23). -/
  rxclrPending : Bool
  /-- `MODE` (R14). -/
  mode : Word
  /-- `RXC` (R14). -/
  rxc : Word
  /-- `TXC` (R14). -/
  txc : Word
  /-- `DREQ` (R14). -/
  dreq : Word
  /-- `GRAY` (R14). -/
  gray : Word
  /-- `INTEN.TXW` (R15). -/
  intenTxw : Bool
  /-- `INTEN.RXR` (R15). -/
  intenRxr : Bool
  /-- `INTSTC.TXW` (R16). -/
  intstcTxw : Bool
  /-- `INTSTC.RXR` (R16). -/
  intstcRxr : Bool
  /-- The transmit FIFO, oldest word first (R17). -/
  txfifo : List Word
  /-- The receive FIFO, oldest word first (R17). -/
  rxfifo : List Word
  /-- The transmit ring (R18). -/
  txring : Ring
  /-- The receive ring (R18). -/
  rxring : Ring
  /-- `tx_underflow` (R19). -/
  txUnderflow : Nat
  /-- `rx_overflow` (R19). -/
  rxOverflow : Nat
  /-- `in_use` (R24). -/
  inUse : Bool
  /-- `isr_registered` (R24). -/
  isrRegistered : Bool
  /-- `usage_ref` (R24). -/
  usageRef : Nat
  /-- The session holder (R130, R135). -/
  holder : Option ProcId
  /-- `svc_pending` (R22). -/
  svcPending : Bool
  /-- `in_service` (R25). -/
  inService : Bool
  /-- `eng` (R26). -/
  eng : Engine
  /-- `hostop` (R27). -/
  hostop : Option HostOp
  /-- `clock_running` (R30). -/
  clockRunning : Bool
  /-- `line_in_rest` (R29). -/
  lineInRest : Line
  /-- `line_out` (R29). -/
  lineOut : List Byte
  /-- The model's own: the process whose `CLOSE` is held until `in_service = 0` (R131; log 6). -/
  held : Option ProcId
  /-- The model's own: the process whose request stands on the host port (log 7). -/
  caller : ProcId
  /-- The model's own: every response so far, oldest first, with the process it went to (R67; log 8). -/
  responses : List (ProcId × Response)
  /-- The model's own: what the last reset event reported to the driver's starter (R201; log 24). -/
  initReport : Option Status
  /-- The model's own: the host-side pseudo-operation in progress (R160 to R166; log 23). Once it has ended its result
  stays here until the next one begins (DESIGN CHOICE, log 37). -/
  call : Option CallRun
  /-- The model's own: the moves already fixed, next first (R7; log 3). -/
  sched : List Move
  /-- The model's own: counter of `Config.freeMove` (log 3). -/
  turns : Nat
  /-- The model's own: counter of `Config.freeWord` (R83; log 11). -/
  draws : Nat
  /-- The model's own: number of reset events since the first, selects `Config.freeSlot` (R32; log 12). -/
  epoch : Nat
  deriving DecidableEq, Repr

/-- Why the machine stops for good. -/
inductive Fault where
  /-- Initialization has failed (`INIT_OK` false): in `Failed` no agent has a step and no request is accepted (R201,
  U11: stuck). Raised by every move and every operation in `Failed`. Safe: the machine stops. -/
  | initializationFailed
  deriving DecidableEq, Repr

/-- Why a move is not one the spec offers. -/
inductive Refusal where
  /-- An instruction without a meaning in this model. Raised by a refused arm of `exec`; none is left. Safe. -/
  | notModelled (mnemonic : String)
  /-- A request while the block is `Off`: the host port accepts none (R31, R201). Safe. -/
  | blockOff
  /-- A request other than `OPEN` while the session is `Closed` (R135, U1: refuse). Safe. -/
  | sessionClosed
  /-- A request other than `OPEN` from a process that does not hold the session (R135, U1: refuse). Safe. -/
  | notHolder
  /-- A request of the holder while another of its requests is in flight (R135, U1: refuse). Safe. -/
  | requestInFlight
  /-- A FIFO clear requested while the direction is enabled (R90, U4: refuse). Raised by step F2 of `CLR_TX_FIFO` and
  `CLR_RX_FIFO` in states no run reaches. Safe. -/
  | clearOfEnabledDirection
  deriving DecidableEq, Repr

/-- The state the reset event stores (R32), before rule R21 is applied, for a given configuration. -/
def State.resetStored (c : Config) : State where
  cfg := c
  power := .ready
  csEn := true
  csRxon := false
  csTxon := false
  txclrPending := false
  rxclrPending := false
  mode := c.modeInit
  rxc := c.rxcInit
  txc := c.txcInit
  dreq := c.dreqInit
  gray := c.grayInit
  intenTxw := true
  intenRxr := true
  intstcTxw := false
  intstcRxr := false
  txfifo := []
  rxfifo := []
  txring := ⟨[], 0, 0⟩
  rxring := ⟨[], 0, 0⟩
  txUnderflow := 0
  rxOverflow := 0
  inUse := false
  isrRegistered := false
  usageRef := 0
  holder := none
  svcPending := false
  inService := false
  eng := ⟨.idle, 0⟩
  hostop := none
  clockRunning := false
  lineInRest := c.lineIn
  lineOut := []
  held := none
  caller := 0
  responses := []
  initReport := none
  call := none
  sched := []
  turns := 0
  draws := 0
  epoch := 0

/-- The state before initialization and after teardown: `Off`, and nothing reads the rest until the next reset event
(R31, R202; log 14). -/
def State.blockOff (c : Config) : State := { State.resetStored c with power := .off }

/-- The machine right after a successful reset event with configuration `c`: the stored values, with `INTSTC.TXW` set
by rule R21 because the transmit FIFO is empty and `INTEN.TXW = 1` (R32). -/
def State.resetWith (c : Config) : State := { State.resetStored c with intstcTxw := true }

/-- The machine right after reset, in the reference configuration (log 2). -/
def State.reset : State := State.resetWith Config.reference

end Sys2Proof.Machine

namespace Sys2Proof

/-- The mover of the `n`-th turn that `sched` does not fix (R7: any agent may step; log 3). -/
opaque Config.freeMove : Nat → Sys2Proof.Machine.Move

end Sys2Proof
end

