-- ==== Sys2Proof/Machine/Flags.lean ====
section
/-! DEFINITION. Every flag of the block: the derived signals (10_state.md R20), the ring conditions (41_ring_buffer.md),
the latches that follow every step (R21, R22) and the words read from the registers that hold flags (R80, R85). -/

namespace Sys2Proof.Machine

/-! ### Derived signals (R20) -/

/-- `CS.TXW`: "transmit FIFO has space". -/
def State.txw (s : State) : Bool := decide (s.txfifo.length < s.cfg.txReadyLevel)

/-- `CS.RXR`: "receive FIFO has data". -/
def State.rxr (s : State) : Bool := decide (s.cfg.rxReadyLevel ≤ s.rxfifo.length)

/-- `CS.TXD`: the hardware can accept one more word. -/
def State.txd (s : State) : Bool := decide (s.txfifo.length < s.cfg.hwFifoDepth)

/-- `CS.RXD`: the hardware has one more word. -/
def State.rxd (s : State) : Bool := decide (0 < s.rxfifo.length)

/-- `irq_line`. -/
def State.irqLine (s : State) : Bool := s.intstcTxw || s.intstcRxr

/-! ### Ring conditions (R18, R103, R104) -/

/-- A ring is empty iff `head = tail`. -/
def Ring.isEmpty (r : Ring) : Bool := r.head == r.tail

/-- A ring of capacity `n` is full iff `(head + 1) mod (n + 1) = tail`. -/
def Ring.isFull (n : Nat) (r : Ring) : Bool := (r.head + 1) % (n + 1) == r.tail

/-- `itemCount = (head - tail) mod (n + 1)`, the non-negative representative (R6, R103). -/
def Ring.itemCount (n : Nat) (r : Ring) : Nat := (((r.head : Int) - (r.tail : Int)) % ((n : Int) + 1)).toNat

/-- `remainingSpace = n - itemCount` (R104). -/
def Ring.remainingSpace (n : Nat) (r : Ring) : Nat := n - r.itemCount n

/-! ### Counters (R6, R19, R115, R120) -/

/-- `satinc(c) = min(c + 1, COUNTER_MAX)`. -/
def satInc (c : Config) (n : Nat) : Nat := min (n + 1) c.counterMax

/-- The comparison of a counter with `THRESHOLD`, after the increment and `>=` (R115; 90_conflicts.md C2). -/
def tripReached (c : Config) (n : Nat) : Bool := decide (c.threshold ≤ n)

/-! ### Latches (R21, R22) -/

/-- The block exists, so that rules R20 to R22 apply. -/
def State.live (s : State) : Bool := s.power == .ready

/-- `INTSTC.TXW` after rule R21. -/
def State.latchedTxw (s : State) : Bool := s.intstcTxw || (s.live && s.txw && s.intenTxw)

/-- `INTSTC.RXR` after rule R21. -/
def State.latchedRxr (s : State) : Bool := s.intstcRxr || (s.live && s.rxr && s.intenRxr)

/-- Rule R22's edge: `irq_mid = 0` (the line after the agent's own action) and `irq_post = 1` (the line after rule
R21), with the routine registered. -/
def State.risingEdge (s : State) : Bool :=
  s.isrRegistered && !s.irqLine && (s.latchedTxw || s.latchedRxr)

/-- What follows every step: rule R21, then rule R22. -/
def State.settle (s : State) : State :=
  { s with
    intstcTxw := s.latchedTxw
    intstcRxr := s.latchedRxr
    svcPending := s.svcPending || s.risingEdge }

/-! ### Words of flags -/

/-- Bit `i` of a word, from a flag. -/
def flagBit (i : Nat) (b : Bool) : Word := if b then 1#32 <<< i else 0#32

/-- The word read from `CS` (R85). -/
def State.csWord (s : State) : Word :=
  flagBit 0 s.csEn ||| flagBit 1 s.csRxon ||| flagBit 2 s.csTxon ||| flagBit 3 s.txclrPending |||
  flagBit 4 s.rxclrPending ||| flagBit 17 s.txw ||| flagBit 18 s.rxr ||| flagBit 19 s.txd ||| flagBit 20 s.rxd

/-- The word read from `INTEN` (R80). -/
def State.intenWord (s : State) : Word := flagBit 1 s.intenRxr ||| flagBit 0 s.intenTxw

/-- The word read from `INTSTC` (R80). -/
def State.intstcWord (s : State) : Word := flagBit 1 s.intstcRxr ||| flagBit 0 s.intstcTxw

end Sys2Proof.Machine
end

