-- ==== Sys2Proof/Machine/Operands.lean ====
section
/-! DEFINITION. Operand forms of the host operations (30_encoding.md R64, R65, R70) and the parts of a response (R66,
R67). -/

namespace Sys2Proof.Machine

/-- A sample as a FIFO word, `zext_32(s)` (R70). -/
def fifoWordOf (sample : Byte) : Word := sample.zeroExtend 32

/-- The sample in a FIFO word, `w[7:0]` (R70). -/
def sampleOf (w : Word) : Byte := w.extractLsb' 0 8

/-- An enable argument: 0 or 1, anything else is illegal (R64, R151). -/
def enableArg (arg : Word) : Option Bool :=
  if arg = 0#32 then some false else if arg = 1#32 then some true else none

/-- `maxBytes` (R64): the argument word as an unsigned number. -/
def maxBytesArg (arg : Word) : Nat := arg.toNat

/-- A count as a response value; counts fit 32 bits by R5 (R67). -/
def countValue (n : Nat) : Word := BitVec.ofNat 32 n

/-- Status codes (R66). -/
def Status.code : Status → BitVec 8
  | .ok => 0
  | .busy => 1
  | .wouldBlock => 2
  | .invalidArgument => 3
  | .invalidData => 4
  | .hardwareFault => 5

/-- `Ok(value, [])`. -/
def Response.okValue (value : Word) : Response := ⟨.ok, value, []⟩

/-- `Ok(0, [])`. -/
def Response.okPlain : Response := Response.okValue 0#32

/-- `Ok(len(bytes), bytes)` of a `READ` (R67, R132). -/
def Response.okBytes (bytes : List Byte) : Response := ⟨.ok, countValue bytes.length, bytes⟩

/-- An error response: value 0, empty payload (R180). -/
def Response.error (status : Status) : Response := ⟨status, 0#32, []⟩

end Sys2Proof.Machine
end

