-- ==== Sys2Proof/Machine/Ops.lean ====
section
/-! DEFINITION. The named operations over ring storage, rings, registers, FIFOs and the host port, entering and leaving
the service routine, the reset event and teardown. Every meaning and every agent is built from these. -/

namespace Sys2Proof.Machine

/-! ### Ring storage: one byte a slot (R40, R45) -/

/-- The byte last written to slot `a`; none where nothing has been written since reset. -/
def Memory.read (m : Memory) (a : Nat) : Option Byte :=
  match m with
  | [] => none
  | c :: rest => if c.1 = a then some c.2 else Memory.read rest a

/-- Store a byte in slot `a`, keeping the indices strictly rising. -/
def Memory.write (m : Memory) (a : Nat) (v : Byte) : Memory :=
  match m with
  | [] => [(a, v)]
  | c :: rest =>
    if a < c.1 then (a, v) :: c :: rest
    else if c.1 = a then (a, v) :: rest
    else c :: Memory.write rest a v

/-- Every index of the storage is above `a`. -/
def Memory.above (a : Nat) (m : Memory) : Bool := m.all fun c => decide (a < c.1)

/-- The canonical form: indices strictly rising, so that equal contents are equal data (log 13). -/
def Memory.wf : Memory → Bool
  | [] => true
  | c :: rest => Memory.above c.1 rest && Memory.wf rest

/-- Every index of the storage is one of the slots `0..n` (R18). -/
def Memory.within (n : Nat) (m : Memory) : Bool := m.all fun c => decide (c.1 ≤ n)

/-! ### Ring primitives (R100 to R105); `n` is the ring's capacity -/

/-- The next index, modulo `n + 1` (R18, R107). -/
def nextIndex (n a : Nat) : Nat := (a + 1) % (n + 1)

/-- The content of slot `a`: the byte last written, or `free a` where nothing has been written since reset. -/
def Ring.slot (free : Nat → Byte) (r : Ring) (a : Nat) : Byte := (r.slots.read a).getD (free a)

/-- `init` (R100): both indices 0, the slots keep what they held. -/
def Ring.init (r : Ring) : Ring := { r with head := 0, tail := 0 }

/-- `tryRead` (R101): none on an empty ring, else the oldest sample and the ring without it. -/
def Ring.tryRead (n : Nat) (free : Nat → Byte) (r : Ring) : Option (Byte × Ring) :=
  if r.isEmpty then none else some (r.slot free r.tail, { r with tail := nextIndex n r.tail })

/-- `tryWrite` (R102): none (`Full`) on a full ring, else the ring with the sample at the old `head`. -/
def Ring.tryWrite (n : Nat) (sample : Byte) (r : Ring) : Option Ring :=
  if r.isFull n then none
  else some { r with slots := r.slots.write r.head sample, head := nextIndex n r.head }

/-- `clear` (R105): both indices 0 in one step. -/
def Ring.clear (r : Ring) : Ring := { r with head := 0, tail := 0 }

/-- The stored samples, oldest first (R18). -/
def Ring.contents (n : Nat) (free : Nat → Byte) (r : Ring) : List Byte :=
  (List.range (r.itemCount n)).map fun k => r.slot free ((r.tail + k) % (n + 1))

/-- What unwritten slots of the transmit ring hold (R18: unspecified; log 12). -/
def State.txFree (s : State) : Nat → Byte := Config.freeSlot s.epoch .transmit

/-- What unwritten slots of the receive ring hold (R18: unspecified; log 12). -/
def State.rxFree (s : State) : Nat → Byte := Config.freeSlot s.epoch .receive

/-- The samples of the transmit ring, oldest first. -/
def State.txContents (s : State) : List Byte := s.txring.contents s.cfg.nTx s.txFree

/-- The samples of the receive ring, oldest first. -/
def State.rxContents (s : State) : List Byte := s.rxring.contents s.cfg.nRx s.rxFree

/-! ### Hardware FIFOs (R82, R83) -/

/-- `FifoWrite` (R82): a word for a full FIFO is lost. -/
def State.fifoWrite (w : Word) (s : State) : State :=
  { s with txfifo := if s.txd then s.txfifo ++ [w] else s.txfifo }

/-- The word `FifoRead` returns (R83): the oldest, or a free word on an empty FIFO. -/
def State.fifoReadWord (s : State) : Word := s.rxfifo.head?.getD (Config.freeWord s.draws)

/-- What `FifoRead` leaves (R83): the FIFO without its oldest word; an empty FIFO stays, and one draw is used up. -/
def State.fifoPop (s : State) : State :=
  { s with
    rxfifo := s.rxfifo.tail
    draws := if s.rxd then s.draws else s.draws + 1 }

/-! ### Registers (R80 to R87) -/

/-- Offset of a register from `REG_BASE` (R11). -/
def RegName.offset : RegName → Nat
  | .cs => 0x00
  | .fifo => 0x04
  | .mode => 0x08
  | .rxc => 0x0C
  | .txc => 0x10
  | .dreq => 0x14
  | .inten => 0x18
  | .intstc => 0x1C
  | .gray => 0x20

/-- Address of a register (R41). -/
def RegName.address (c : Config) (name : RegName) : Nat := c.regBase + name.offset

/-- The fields of `CS` that a field update can name (R84). -/
inductive CsField where
  | en
  | rxon
  | txon
  | txclr
  | rxclr
  deriving DecidableEq, Repr

/-- Bit position of a `CS` field (R12). -/
def CsField.bit : CsField → Nat
  | .en => 0
  | .rxon => 1
  | .txon => 2
  | .txclr => 3
  | .rxclr => 4

/-- Field update `CS.f <- b` (R84): field `f` changes as a write of `b` to its bit would (R86), nothing else does. -/
def State.csUpdate (f : CsField) (b : Bool) (s : State) : State :=
  match f with
  | .en => { s with csEn := b }
  | .rxon => { s with csRxon := b }
  | .txon => { s with csTxon := b }
  | .txclr => { s with txclrPending := s.txclrPending || b }
  | .rxclr => { s with rxclrPending := s.rxclrPending || b }

/-- Whole-word write of `CS` (R86). No agent uses it. -/
def State.writeCs (v : Word) (s : State) : State :=
  { s with
    csEn := v.getLsbD 0
    csRxon := v.getLsbD 1
    csTxon := v.getLsbD 2
    txclrPending := s.txclrPending || v.getLsbD 3
    rxclrPending := s.rxclrPending || v.getLsbD 4 }

/-- Write of `INTSTC` (R87): a 1 clears its flag, a 0 leaves it. -/
def State.writeIntstc (v : Word) (s : State) : State :=
  { s with
    intstcTxw := s.intstcTxw && !v.getLsbD 0
    intstcRxr := s.intstcRxr && !v.getLsbD 1 }

/-- `readRegister` (R80): the word and the state left; only a read of `FIFO` changes the state. -/
def State.readRegister (name : RegName) (s : State) : Word × State :=
  match name with
  | .cs => (s.csWord, s)
  | .fifo => (s.fifoReadWord, s.fifoPop)
  | .mode => (s.mode, s)
  | .rxc => (s.rxc, s)
  | .txc => (s.txc, s)
  | .dreq => (s.dreq, s)
  | .inten => (s.intenWord, s)
  | .intstc => (s.intstcWord, s)
  | .gray => (s.gray, s)

/-- `writeRegister` (R81), before the latches that follow every step. -/
def State.writeRegister (name : RegName) (v : Word) (s : State) : State :=
  match name with
  | .cs => s.writeCs v
  | .fifo => s.fifoWrite v
  | .mode => { s with mode := v }
  | .rxc => { s with rxc := v }
  | .txc => { s with txc := v }
  | .dreq => { s with dreq := v }
  | .inten => { s with intenTxw := v.getLsbD 0, intenRxr := v.getLsbD 1 }
  | .intstc => s.writeIntstc v
  | .gray => { s with gray := v }

/-! ### The host port (R66, R67, R135) -/

/-- `respond` (R6): the response goes to process `p`. -/
def State.respond (p : ProcId) (r : Response) (s : State) : State :=
  { s with responses := s.responses ++ [(p, r)] }

/-- The operation in flight, if any, ends. -/
def State.endOp (s : State) : State := { s with hostop := none }

/-- The operation in flight of process `p` is now at `progress` (R27). -/
def State.setOp (p : ProcId) (progress : Progress) (s : State) : State :=
  { s with hostop := some ⟨p, progress⟩ }

/-- What a request meets before anything else: a block that is not `Ready` accepts none (R31, R201). -/
def whenReady (s t : State) : Host.Outcome State Fault Refusal :=
  match s.power with
  | .failed => .fault .initializationFailed
  | .off => .refused .blockOff
  | .ready => .next t

/-- What every request but `OPEN` meets before anything else (R135, R190 c): a ready block, an open session, its holder,
and no other request of the holder in flight. -/
def whenHolder (s t : State) : Host.Outcome State Fault Refusal :=
  match s.power with
  | .failed => .fault .initializationFailed
  | .off => .refused .blockOff
  | .ready =>
    if s.inUse = false then .refused .sessionClosed
    else if s.holder ≠ some s.caller then .refused .notHolder
    else if s.hostop.isSome || s.held.isSome then .refused .requestInFlight
    else .next t

/-! ### The one trap: entering and leaving the service routine (R191, R192) -/

/-- Entry, step S1 (R111): nothing is saved; signalling is masked and control goes to the fixed routine. -/
def State.enterService (s : State) : State :=
  { s with svcPending := false, inService := true, eng := ⟨.s2test, 0⟩ }

/-- Return, first half, step S4 (R122): both flags are acknowledged. -/
def State.acknowledge (s : State) : State :=
  { s.writeRegister .intstc 3#32 with eng := ⟨.s5, 0⟩ }

/-- Return, second half, step S5 (R123): signalling is unmasked. -/
def State.leaveService (s : State) : State :=
  { s with inService := false, eng := ⟨.idle, 0⟩ }

/-! ### Reset event and teardown (R200 to R202) -/

/-- A new state of the block with the environment of `s`: what is no state of the block survives (log 15). -/
def State.withEnvironmentOf (s t : State) : State :=
  { t with
    caller := s.caller
    responses := s.responses
    call := s.call
    sched := s.sched
    turns := s.turns
    draws := s.draws
    epoch := s.epoch + 1 }

/-- The reset event's effect: the stored values of R32, or `Failed` and the report `HardwareFault` (R200, R201). -/
def State.initBlock (s : State) : State :=
  if s.cfg.initOk then s.withEnvironmentOf (State.resetStored s.cfg)
  else s.withEnvironmentOf
    { State.resetStored s.cfg with power := .failed, initReport := some .hardwareFault }

/-- Teardown's effect: the block's state is lost (R202; log 14). -/
def State.teardown (s : State) : State := s.withEnvironmentOf (State.blockOff s.cfg)

end Sys2Proof.Machine
end

