-- ==== Sys2Proof/Machine/CallSession.lean ====
section
/-! DEFINITION. The host-side sequences of 45_call_session.md (R160 to R166): which request each line of an expansion
issues and what the response makes of it. They are no part of the block (R3 f); the moves `beginCall` and `call` run
them against it (log 23). -/

namespace Sys2Proof.Machine

/-- The first line of a pseudo-operation. R163's operand of `writeFrame` is exactly `FRAME_SIZE` bytes; that another
length is taken as it is, unchecked, is the model's choice (DESIGN CHOICE, log 36). -/
def PseudoOp.start : PseudoOp → CallPos
  | .startSession => .openDevice
  | .prefill => .prefillQuery false
  | .stopSession => .disableReceive
  | .writeFrame samples => .frameSpace samples
  | .readFrame => .frameCount

/-- The request a line issues; none at the settle wait and at the end. The `WRITE` of `writeFrame` carries the samples
it was given, of whatever length (DESIGN CHOICE, log 36). -/
def CallPos.request (c : Config) : CallPos → Option Instr
  | .openDevice => some .openSession
  | .clearTxRing => some .clrTxRing
  | .clearRxRing => some .clrRxRing
  | .clearTxFifo => some .clrTxFifo
  | .clearRxFifo => some .clrRxFifo
  | .settleWait => none
  | .enableReceive => some (.setRxEn 1#32)
  | .prefillQuery _ => some .getTxSpace
  | .prefillWrite _ space => some (.write (List.replicate space 0#8))
  | .enableTransmit => some (.setTxEn 1#32)
  | .disableReceive => some (.setRxEn 0#32)
  | .disableTransmit => some (.setTxEn 0#32)
  | .closeDevice => some .closeSession
  | .frameSpace _ => some .getTxSpace
  | .frameWrite samples => some (.write samples)
  | .frameCount => some .getRxCount
  | .frameRead => some (.read (BitVec.ofNat 32 c.frameSize))
  | .done _ => none

/-- What follows the prefill: line 9 of `startSession`, or the end (R160, R161). -/
def afterPrefill (thenEnable : Bool) : CallPos := if thenEnable then .enableTransmit else .done .success

/-- The line after a response (R160 to R164). -/
def CallPos.afterResponse (c : Config) (pos : CallPos) (r : Response) : CallPos :=
  match pos with
  | .openDevice => if r.status = .ok then .clearTxRing else .done (.failed r.status)
  | .clearTxRing => .clearRxRing
  | .clearRxRing => .clearTxFifo
  | .clearTxFifo => .clearRxFifo
  | .clearRxFifo => .settleWait
  | .settleWait => .enableReceive
  | .enableReceive => .prefillQuery true
  | .prefillQuery thenEnable =>
    if r.value = 0#32 then afterPrefill thenEnable else .prefillWrite thenEnable r.value.toNat
  | .prefillWrite thenEnable _ => .prefillQuery thenEnable
  | .enableTransmit => .done .success
  | .disableReceive => .disableTransmit
  | .disableTransmit => .closeDevice
  | .closeDevice => .done .success
  | .frameSpace samples =>
    if c.frameSize < r.value.toNat then .frameWrite samples else .done (.failed .wouldBlock)
  | .frameWrite _ => .done .success
  | .frameCount => if c.frameSize < r.value.toNat then .frameRead else .done .noFrame
  | .frameRead =>
    if r.value.toNat < c.frameSize then .done (.failed .invalidData) else .done (.frame r.payload)
  | .done result => .done result

/-- The pseudo-operation has ended. -/
def CallPos.isDone : CallPos → Bool
  | .done _ => true
  | _ => false

/-- The first response to process `p` among the responses from number `n` on. -/
def State.responseSince (p : ProcId) (n : Nat) (s : State) : Option Response :=
  ((s.responses.drop n).find? fun e => e.1 == p).map Prod.snd

/-- A process begins a pseudo-operation; only one is in progress at a time, and it replaces the result
of the one before, which nothing reads (DESIGN CHOICE, log 37). The length of `writeFrame`'s samples is not
checked (DESIGN CHOICE, log 36). -/
def State.startCall (p : ProcId) (op : PseudoOp) (s : State) : State :=
  match s.call with
  | none => { s with call := some ⟨p, op.start, none⟩ }
  | some run => if run.pos.isDone then { s with call := some ⟨p, op.start, none⟩ } else s

end Sys2Proof.Machine
end

