-- ==== Sys2Proof/Machine/Commands.lean ====
section
/-! DEFINITION. The nine commands (44_commands.md R141 to R152) and the later steps of the two FIFO clears. -/

namespace Sys2Proof.Machine

/-- `GET_TX_SPACE` (R141). -/
def execGetTxSpace (s : State) : Host.Outcome State Fault Refusal :=
  whenHolder s (s.respond s.caller (.okValue (countValue (s.txring.remainingSpace s.cfg.nTx))))

/-- `GET_RX_COUNT` (R142). -/
def execGetRxCount (s : State) : Host.Outcome State Fault Refusal :=
  whenHolder s (s.respond s.caller (.okValue (countValue (s.rxring.itemCount s.cfg.nRx))))

/-- `CLR_TX_FIFO`, step F1 (R143): the enable is saved and the direction disabled. -/
def execClrTxFifo (s : State) : Host.Outcome State Fault Refusal :=
  whenHolder s ((s.csUpdate .txon false).setOp s.caller (.clrTx .f2 s.csTxon))

/-- `CLR_RX_FIFO`, step F1 (R144). -/
def execClrRxFifo (s : State) : Host.Outcome State Fault Refusal :=
  whenHolder s ((s.csUpdate .rxon false).setOp s.caller (.clrRx .f2 s.csRxon))

/-- Steps F2, F3 and F4 of `CLR_TX_FIFO` (R143): request the clear, hold until it has taken effect, restore the
enable. A request for an enabled direction has no meaning (U4). -/
def State.clearTxStep (p : ProcId) (next : ClearStep) (saved : Bool) (s : State) :
    Host.Outcome State Fault Refusal :=
  match next with
  | .f2 =>
    if s.csTxon then .refused .clearOfEnabledDirection
    else .next ((s.csUpdate .txclr true).setOp p (.clrTx .f3 saved))
  | .f3 => .next (if s.txclrPending then s else s.setOp p (.clrTx .f4 saved))
  | .f4 => .next (((if saved then s.csUpdate .txon true else s).respond p .okPlain).endOp)

/-- Steps F2, F3 and F4 of `CLR_RX_FIFO` (R144). -/
def State.clearRxStep (p : ProcId) (next : ClearStep) (saved : Bool) (s : State) :
    Host.Outcome State Fault Refusal :=
  match next with
  | .f2 =>
    if s.csRxon then .refused .clearOfEnabledDirection
    else .next ((s.csUpdate .rxclr true).setOp p (.clrRx .f3 saved))
  | .f3 => .next (if s.rxclrPending then s else s.setOp p (.clrRx .f4 saved))
  | .f4 => .next (((if saved then s.csUpdate .rxon true else s).respond p .okPlain).endOp)

/-- An enable command (R145 to R147): an argument other than 0 or 1 answers `InvalidArgument` and changes nothing
(R151). -/
def State.setEnable (f : CsField) (arg : Word) (s : State) : State :=
  match enableArg arg with
  | none => s.respond s.caller (.error .invalidArgument)
  | some b => (s.csUpdate f b).respond s.caller .okPlain

/-- `SET_EN` (R145). -/
def execSetEn (arg : Word) (s : State) : Host.Outcome State Fault Refusal :=
  whenHolder s (s.setEnable .en arg)

/-- `SET_TX_EN` (R146). -/
def execSetTxEn (arg : Word) (s : State) : Host.Outcome State Fault Refusal :=
  whenHolder s (s.setEnable .txon arg)

/-- `SET_RX_EN` (R147). -/
def execSetRxEn (arg : Word) (s : State) : Host.Outcome State Fault Refusal :=
  whenHolder s (s.setEnable .rxon arg)

/-- `CLR_TX_RING` (R148), as the one atomic `clear` of R105 (U3, log 17). -/
def execClrTxRing (s : State) : Host.Outcome State Fault Refusal :=
  whenHolder s ({ s with txring := s.txring.clear }.respond s.caller .okPlain)

/-- `CLR_RX_RING` (R149), as the one atomic `clear` of R105 (U3, log 17). -/
def execClrRxRing (s : State) : Host.Outcome State Fault Refusal :=
  whenHolder s ({ s with rxring := s.rxring.clear }.respond s.caller .okPlain)

end Sys2Proof.Machine
end

