-- ==== Sys2Proof/Machine/Session.lean ====
section
/-! DEFINITION. `OPEN` and `CLOSE` (43_session_entry.md R130, R131). -/

namespace Sys2Proof.Machine

/-- The effect of a successful `OPEN` (R130). The rings, the FIFOs and the registers are not touched. -/
def State.openFor (p : ProcId) (s : State) : State :=
  { s with
    inUse := true
    holder := some p
    txUnderflow := 0
    rxOverflow := 0
    isrRegistered := true
    svcPending := s.irqLine
    usageRef := s.usageRef + 1 }

/-- `OPEN` (R130): `Busy` on an open session, with no other effect (R181). -/
def execOpenSession (s : State) : Host.Outcome State Fault Refusal :=
  whenReady s
    (if s.inUse then s.respond s.caller (.error .busy)
     else (s.openFor s.caller).respond s.caller .okPlain)

/-- The step of `CLOSE` once it is not held (R131). The directions, rings and FIFOs are not touched. -/
def State.closeFor (p : ProcId) (s : State) : State :=
  { s.respond p .okPlain with
    isrRegistered := false
    svcPending := false
    txUnderflow := 0
    rxOverflow := 0
    usageRef := s.usageRef - 1
    inUse := false
    holder := none
    held := none }

/-- `CLOSE` (R131): while the service routine runs the request is held on the port (log 6). -/
def execCloseSession (s : State) : Host.Outcome State Fault Refusal :=
  whenHolder s (if s.inService then { s with held := some s.caller } else s.closeFor s.caller)

/-- A held `CLOSE` looks again: its step is taken as soon as `in_service = 0` (R131). -/
def State.retryClose (p : ProcId) (s : State) : State := if s.inService then s else s.closeFor p

end Sys2Proof.Machine
end

