-- ==== Sys2Proof/Machine/Stream.lean ====
section
/-! DEFINITION. `READ` and `WRITE` (43_session_entry.md R132, R133), one ring primitive a step. -/

namespace Sys2Proof.Machine

/-- One step RD1 of `READ` (R132): respond when nothing more is wanted or the ring is empty, else take one sample. -/
def State.readIter (p : ProcId) (wanted : Nat) (got : List Byte) (s : State) : State :=
  match wanted, s.rxring.tryRead s.cfg.nRx s.rxFree with
  | 0, _ => (s.respond p (.okBytes got)).endOp
  | _ + 1, none => (s.respond p (.okBytes got)).endOp
  | w + 1, some (sample, ring) => { s with rxring := ring }.setOp p (.read w (got ++ [sample]))

/-- `READ` (R132): RD0 and the first RD1 as one step. -/
def execRead (maxBytes : Word) (s : State) : Host.Outcome State Fault Refusal :=
  whenHolder s (s.readIter s.caller (maxBytesArg maxBytes) [])

/-- One step W1 of `WRITE` (R133): respond with the number of bytes attempted once the payload is exhausted, else offer
one sample to the ring and ignore whether it fits. -/
def State.writeIter (p : ProcId) (payload : List Byte) (k : Nat) (s : State) : State :=
  match payload[k]? with
  | none => (s.respond p (.okValue (countValue payload.length))).endOp
  | some sample =>
    { s with txring := (s.txring.tryWrite s.cfg.nTx sample).getD s.txring }.setOp p (.write payload (k + 1))

/-- `WRITE`, step W0 (R133): `WouldBlock` on a full ring, before anything is written. -/
def execWrite (payload : List Byte) (s : State) : Host.Outcome State Fault Refusal :=
  whenHolder s
    (if s.txring.remainingSpace s.cfg.nTx = 0 then s.respond s.caller (.error .wouldBlock)
     else s.setOp s.caller (.write payload 0))

end Sys2Proof.Machine
end

