-- ==== Sys2Proof/Machine/Dispatch.lean ====
section
/-! DEFINITION. The meaning of every host operation, one arm per constructor. -/

namespace Sys2Proof.Machine

def exec (i : Instr) (s : State) : Host.Outcome State Fault Refusal :=
  match i with
  | .openSession => Sys2Proof.Machine.execOpenSession s
  | .closeSession => Sys2Proof.Machine.execCloseSession s
  | .read maxBytes => Sys2Proof.Machine.execRead maxBytes s
  | .write payload => Sys2Proof.Machine.execWrite payload s
  | .getTxSpace => Sys2Proof.Machine.execGetTxSpace s
  | .getRxCount => Sys2Proof.Machine.execGetRxCount s
  | .clrTxFifo => Sys2Proof.Machine.execClrTxFifo s
  | .clrRxFifo => Sys2Proof.Machine.execClrRxFifo s
  | .setEn arg => Sys2Proof.Machine.execSetEn arg s
  | .setTxEn arg => Sys2Proof.Machine.execSetTxEn arg s
  | .setRxEn arg => Sys2Proof.Machine.execSetRxEn arg s
  | .clrTxRing => Sys2Proof.Machine.execClrTxRing s
  | .clrRxRing => Sys2Proof.Machine.execClrRxRing s

end Sys2Proof.Machine
end

