-- ==== Sys2Proof/Machine/Engine.lean ====
section
/-! DEFINITION. The Transfer Engine's service routine (42_transfer_engine.md), one phase step or loop iteration a
step. -/

namespace Sys2Proof.Machine

/-- S1 is enabled (R110). -/
def State.invocable (s : State) : Bool := s.live && s.isrRegistered && s.svcPending && !s.inService

/-- The engine moves to a phase with `i = 0`. -/
def State.goPhase (p : Phase) (s : State) : State := { s with eng := ⟨p, 0⟩ }

/-- Transmit trip (R116): the direction is disabled, two zero words are pushed, the counter is reset. -/
def State.txTrip (s : State) : State :=
  { ((s.csUpdate .txon false).fifoWrite 0#32).fifoWrite 0#32 with txUnderflow := 0 }

/-- Transmit underflow accounting (R115): count, then trip at the threshold. -/
def State.countUnderflow (s : State) : State :=
  let n := satInc s.cfg s.txUnderflow
  if tripReached s.cfg n then { s with txUnderflow := n }.txTrip else { s with txUnderflow := n }

/-- Receive trip (R121): the direction is disabled, two words are read and discarded, the counter is reset. -/
def State.rxTrip (s : State) : State :=
  { ((s.csUpdate .rxon false).fifoPop).fifoPop with rxOverflow := 0 }

/-- Receive overflow accounting (R120). -/
def State.countOverflow (s : State) : State :=
  let n := satInc s.cfg s.rxOverflow
  if tripReached s.cfg n then { s with rxOverflow := n }.rxTrip else { s with rxOverflow := n }

/-- S2test (R112): the live ready condition decides, whatever the enables are. -/
def State.s2test (s : State) : State := s.goPhase (if s.txw then .s2loop else .s3test)

/-- One iteration of the S2 loop (R113): batch limit, then the hardware, then the ring. -/
def State.s2loop (s : State) : State :=
  if s.cfg.batchLimit ≤ s.eng.i then s.goPhase .s3test
  else if s.txd = false then s.goPhase .s3test
  else match s.txring.tryRead s.cfg.nTx s.txFree with
    | some (sample, ring) =>
      { { s with txring := ring }.fifoWrite (fifoWordOf sample) with eng := ⟨.s2loop, s.eng.i + 1⟩ }
    | none => s.countUnderflow.goPhase .s3test

/-- S3test (R117). -/
def State.s3test (s : State) : State := s.goPhase (if s.rxr then .s3loop else .s4)

/-- One iteration of the S3 loop (R118): batch limit, then the hardware, then the ring; a sample the ring has no room
for has left the FIFO and is lost. -/
def State.s3loop (s : State) : State :=
  if s.cfg.batchLimit ≤ s.eng.i then s.goPhase .s4
  else if s.rxd = false then s.goPhase .s4
  else match s.rxring.tryWrite s.cfg.nRx (sampleOf s.fifoReadWord) with
    | some ring => { s.fifoPop with rxring := ring, eng := ⟨.s3loop, s.eng.i + 1⟩ }
    | none => s.fifoPop.countOverflow.goPhase .s4

/-- One step of the Transfer Engine (R110 to R123). Only the start of an invocation can be without an enabled step
(R125). -/
def State.engineStep (s : State) : State :=
  match s.eng.phase with
  | .idle => if s.invocable then s.enterService else s
  | .s2test => s.s2test
  | .s2loop => s.s2loop
  | .s3test => s.s3test
  | .s3loop => s.s3loop
  | .s4 => s.acknowledge
  | .s5 => s.leaveService

end Sys2Proof.Machine
end

