-- ==== Sys2Proof/Machine/Serial.lean ====
section
/-! DEFINITION. The serial side and the FIFO clear unit (40_register_interface.md R89 to R93), the clock input (R165),
and the enabling of the reset event and of teardown (R200, R202). A step that is not enabled is not taken: the state
stays as it is (R7; log 4). -/

namespace Sys2Proof.Machine

/-- `TxTick` is enabled (R92). -/
def State.txTickEnabled (s : State) : Bool :=
  s.live && s.clockRunning && s.csEn && s.csTxon && decide (0 < s.txfifo.length)

/-- `TxTick` (R92): the oldest word of `txfifo` goes out on the line. -/
def State.txTick (s : State) : State :=
  if s.txTickEnabled then
    { s with txfifo := s.txfifo.tail, lineOut := s.lineOut ++ (s.txfifo.head?.map sampleOf).toList }
  else s

/-- The sample that arrives next on the line, `head(line_in_rest)`; none where the line has ended (R29, R93). -/
def arrival (l : Line) : Option Byte :=
  match l.known, l.endless with
  | b :: _, _ => some b
  | [], some e => some (Config.freeSample e.stream e.next)
  | [], none => none

/-- The line once its next sample has arrived, `tail(line_in_rest)` (R29, R93). -/
def lineAfter (l : Line) : Line :=
  match l.known, l.endless with
  | _ :: rest, _ => { l with known := rest }
  | [], some e => { l with endless := some { e with next := e.next + 1 } }
  | [], none => l

/-- `RxTick` is enabled (R93). -/
def State.rxTickEnabled (s : State) : Bool :=
  s.live && s.clockRunning && (arrival s.lineInRest).isSome

/-- The receiver takes an arriving sample; otherwise it is lost (R93). -/
def State.rxAccepts (s : State) : Bool :=
  s.csEn && s.csRxon && decide (s.rxfifo.length < s.cfg.hwFifoDepth)

/-- `RxTick` (R93): one sample arrives on the line. -/
def State.rxTick (s : State) : State :=
  if s.rxTickEnabled then
    { s with
      lineInRest := lineAfter s.lineInRest
      rxfifo := if s.rxAccepts then s.rxfifo ++ ((arrival s.lineInRest).map fifoWordOf).toList else s.rxfifo }
  else s

/-- `ClearTx` (R89). -/
def State.clearTxFifo (s : State) : State :=
  if s.live && s.clockRunning && s.txclrPending then { s with txfifo := [], txclrPending := false } else s

/-- `ClearRx` (R89). -/
def State.clearRxFifo (s : State) : State :=
  if s.live && s.clockRunning && s.rxclrPending then { s with rxfifo := [], rxclrPending := false } else s

/-- `clockUp` and `clockDown` (R165): an input of the block, no other effect. -/
def State.setClock (b : Bool) (s : State) : State := { s with clockRunning := b }

/-- The reset event is enabled only in `Off` (R200). -/
def State.resetEvent (s : State) : State := if s.power = .off then s.initBlock else s

/-- Teardown is enabled only in `Ready` with no usage reference (R202). -/
def State.teardownEvent (s : State) : State := if s.power = .ready ∧ s.usageRef = 0 then s.teardown else s

end Sys2Proof.Machine
end

