-- ==== Sys2Proof/Machine/Agents.lean ====
section
/-! DEFINITION. What one move does: a request issued on the host port is decoded and executed (R68, R135), the
operation in flight advances (R27), the other agents take their steps; then the latches of R21 and R22. -/

namespace Sys2Proof.Machine

/-- A decoded request runs; an `Illegal` one answers `InvalidArgument` and changes nothing (R69), after the same check
of the session state (R190 c). -/
def State.run (d : Except Illegal Instr) (s : State) : Host.Outcome State Fault Refusal :=
  match d with
  | .ok i => exec i s
  | .error _ => whenHolder s (s.respond s.caller (.error .invalidArgument))

/-- Process `p` issues a request (R68: decoded at the moment it is issued). -/
def State.issue (p : ProcId) (r : Request) (s : State) : Host.Outcome State Fault Refusal :=
  { s with caller := p }.run (decode r)

/-- The next atomic step of the operation in flight (R27), or of a held `CLOSE` (R131). -/
def State.hostStep (s : State) : Host.Outcome State Fault Refusal :=
  match s.hostop, s.held with
  | some ⟨p, .read wanted got⟩, _ => .next (s.readIter p wanted got)
  | some ⟨p, .write payload k⟩, _ => .next (s.writeIter p payload k)
  | some ⟨p, .clrTx next saved⟩, _ => s.clearTxStep p next saved
  | some ⟨p, .clrRx next saved⟩, _ => s.clearRxStep p next saved
  | none, some p => .next (s.retryClose p)
  | none, none => .next s

/-- A line of a pseudo-operation that has no request on the port: it issues its request, or passes a wait. -/
def State.callIssue (run : CallRun) (s : State) : Host.Outcome State Fault Refusal :=
  match run.pos.request s.cfg with
  | some i => { s with call := some { run with since := some s.responses.length } }.issue run.proc (encode i)
  | none => .next { s with call := some { run with pos := run.pos.afterResponse s.cfg .okPlain } }

/-- The next step of the pseudo-operation in progress: each request after the response to the one before
(45_call_session.md). Without a response it waits. At its end the result, a frame included, is left in `call` until the
next `beginCall`: where it stands once returned is the model's choice (DESIGN CHOICE, log 37). -/
def State.callStep (s : State) : Host.Outcome State Fault Refusal :=
  match s.call with
  | none => .next s
  | some run =>
    match run.since with
    | none => s.callIssue run
    | some n =>
      match s.responseSince run.proc n with
      | none => .next s
      | some r => .next { s with call := some { run with pos := run.pos.afterResponse s.cfg r, since := none } }

/-- One move in a block that has not failed. The agents of the block step only in `Ready` (R31). -/
def State.move (m : Move) (s : State) : Host.Outcome State Fault Refusal :=
  match m with
  | .issue p r => s.issue p r
  | .host => if s.live then s.hostStep else .next s
  | .engine => .next (if s.live then s.engineStep else s)
  | .txTick => .next s.txTick
  | .rxTick => .next s.rxTick
  | .clearTx => .next s.clearTxFifo
  | .clearRx => .next s.clearRxFifo
  | .clockUp => .next (s.setClock true)
  | .clockDown => .next (s.setClock false)
  | .resetEvent => .next s.resetEvent
  | .teardown => .next s.teardownEvent
  | .beginCall p op => .next (s.startCall p op)
  | .call => s.callStep

/-- One move; in `Failed` nothing has a step (R201, U11). -/
def State.act (m : Move) (s : State) : Host.Outcome State Fault Refusal :=
  if s.power = .failed then .fault .initializationFailed else s.move m

/-- The latches follow every step that has been taken (R7, R21, R22). -/
def settleOutcome (o : Host.Outcome State Fault Refusal) : Host.Outcome State Fault Refusal :=
  match o with
  | .next t => .next t.settle
  | .fault f => .fault f
  | .refused r => .refused r

/-- The move of this step: the next one fixed, or a free one (log 3). -/
def State.nextMove (s : State) : Move := s.sched.head?.getD (Config.freeMove s.turns)

/-- The state once its move has been taken from the schedule. -/
def State.afterChoice (s : State) : State :=
  { s with sched := s.sched.tail, turns := if s.sched.isEmpty then s.turns + 1 else s.turns }

/-- The session is open for process `p`, as `OPEN` leaves it, where it was not (log 22). -/
def State.ensureOpen (p : ProcId) (s : State) : State := if s.inUse then s else s.openFor p

/-- `s` with everything that issuing takes (R68, R135: a ready block, no other request on the port and, for all but
`OPEN`, the open session of the issuer), and the request as the next move (log 22). -/
def State.withRequest (r : Request) (s : State) : State :=
  let p := s.holder.getD s.caller
  let free := { s with power := .ready, hostop := none, held := none, sched := .issue p r :: s.sched }
  if decode r = .ok .openSession then free else { free.ensureOpen p with holder := some p }

end Sys2Proof.Machine
end

