-- ==== Sys2Proof/Machine/Step.lean ====
section
/-! DEFINITION. One step of the whole block: one atomic action of one agent (R7), then the latches. -/

namespace Sys2Proof.Machine

/-- One step: the next move of the schedule, then rules R21 and R22. -/
def step (s : State) : Host.Outcome State Fault Refusal :=
  settleOutcome (s.afterChoice.act s.nextMove)

/-- `s` with the request of a table word where the next step takes it: as the next move of the schedule, issued by the
session holder (log 22). -/
def State.withFetchWord (s : State) (nbits w : Nat) : State := s.withRequest (tableRequest nbits w)

end Sys2Proof.Machine
end

