-- ==== Sys2Proof/Safety.lean ====
section
/-! DEFINITION. The terms in which claims about the block are stated: when a request can be issued, the shape of a
response, what a step issues, runs of one agent alone, and the invariant of 10_state.md R33 with what it rests on. -/

namespace Sys2Proof.Machine

/-! ### Requests and responses -/

/-- The process on the host port may issue a request other than `OPEN` (R135). -/
abbrev State.Issuable (s : State) : Prop :=
  s.power = .ready ∧ s.inUse = true ∧ s.holder = some s.caller ∧ s.hostop = none ∧ s.held = none

/-- `s` with one more response, to process `p`, and no other change. -/
def State.answered (s : State) (p : ProcId) (status : Status) (value : Word) (payload : List Byte) : State :=
  { s with responses := s.responses ++ [(p, ⟨status, value, payload⟩)] }

/-- The request this step issues, if its mover is a host process: an `issue` move, or a `call` move at a line that has
a request to issue. -/
def State.requestOf (s : State) : Option (ProcId × Request) :=
  match s.nextMove with
  | .issue p r => some (p, r)
  | .call =>
    match s.call with
    | some ⟨p, pos, none⟩ => (pos.request s.cfg).map fun i => (p, encode i)
    | _ => none
  | _ => none

/-- This step issues a request that decodes to `i`. -/
abbrev State.Issues (s : State) (i : Instr) : Prop := ∃ p r, s.requestOf = some (p, r) ∧ decode r = .ok i

/-- The latches of rules R21 and R22 have nothing left to do. -/
abbrev State.Settled (s : State) : Prop := s.settle = s

/-- `s` with a given schedule and nothing else changed. -/
def State.withSched (s : State) (moves : List Move) : State := { s with sched := moves }

/-- The outcome of taking exactly the moves listed, one a step. -/
def State.runMoves (s : State) (moves : List Move) : Host.Outcome State Fault Refusal :=
  Sys2Proof.core.run moves.length (s.withSched moves)

/-! ### Fairness (R216) -/

/-- The move has a step to take at `s`: it is not held and its condition is met. -/
def State.enabled (m : Move) (s : State) : Prop := s.act m ≠ .next s

/-- An infinite run: the states passed through and the move taken at each of them. -/
def IsRun (run : Nat → State) (moves : Nat → Move) : Prop :=
  ∀ k, step ((run k).withSched [moves k]) = .next (run (k + 1))

/-- The moves of the agents that owe progress: the operation in flight, the engine, the serial side, the clear unit. -/
def fairMoves : List Move := [.host, .engine, .txTick, .rxTick, .clearTx, .clearRx]

/-- Weak fairness: a step that stays enabled is eventually taken (R216; D25). -/
def WeaklyFair (run : Nat → State) (moves : Nat → Move) : Prop :=
  ∀ m ∈ fairMoves, ∀ n, (∀ k, n ≤ k → (run k).enabled m) → ∃ k, n ≤ k ∧ moves k = m

/-! ### The invariant (R33) -/

/-- A ring of capacity `n`: both indices in `0..n`, the storage in canonical form and within the `n + 1` slots. -/
abbrev Ring.Ok (n : Nat) (r : Ring) : Prop :=
  r.head ≤ n ∧ r.tail ≤ n ∧ r.slots.wf = true ∧ r.slots.within n = true

/-- Every sample stored in the ring has been written (R18: no slot is read before it has been written). -/
abbrev Ring.Written (n : Nat) (r : Ring) : Prop :=
  ∀ k, k < r.itemCount n → (r.slots.read ((r.tail + k) % (n + 1))).isSome = true

/-- Rings and FIFOs stay within their bounds (R17, R18, R33). -/
abbrev State.StorageInv (s : State) : Prop :=
  s.txring.Ok s.cfg.nTx ∧ s.txring.Written s.cfg.nTx ∧
  s.rxring.Ok s.cfg.nRx ∧ s.rxring.Written s.cfg.nRx ∧
  s.txfifo.length ≤ s.cfg.hwFifoDepth ∧ s.rxfifo.length ≤ s.cfg.hwFifoDepth

/-- The error counters stay below the threshold (R33). -/
abbrev State.CounterInv (s : State) : Prop := s.txUnderflow < s.cfg.threshold ∧ s.rxOverflow < s.cfg.threshold

/-- Session state (R24, R33). -/
abbrev State.SessionInv (s : State) : Prop :=
  s.isrRegistered = s.inUse ∧ s.usageRef = (if s.inUse then 1 else 0) ∧ s.holder.isSome = s.inUse ∧
  (s.inService = true → s.inUse = true)

/-- The engine is in a phase in which it has not yet acknowledged the flags. -/
def Phase.beforeAck : Phase → Bool
  | .idle => false
  | .s2test => true
  | .s2loop => true
  | .s3test => true
  | .s3loop => true
  | .s4 => true
  | .s5 => false

/-- The engine's control position and the pending latch (R22, R26): `Idle` exactly when `in_service = 0`; before the
acknowledge the line is up and nothing is pending, otherwise, while registered, `svc_pending = irq_line`. -/
abbrev State.ServiceInv (s : State) : Prop :=
  (s.eng.phase = .idle ↔ s.inService = false) ∧ s.eng.i ≤ s.cfg.batchLimit ∧
  (s.isrRegistered = false → s.svcPending = false) ∧
  (s.eng.phase.beforeAck = true → s.irqLine = true ∧ s.svcPending = false) ∧
  (s.isrRegistered = true → s.eng.phase.beforeAck = false → s.svcPending = s.irqLine)

/-- The operation in flight is a transmit FIFO clear; `waiting` narrows it to step F3. -/
def State.inTxClear (s : State) (waiting : Bool) : Bool :=
  match s.hostop with
  | some ⟨_, .clrTx next _⟩ => !waiting || next == .f3
  | _ => false

/-- The operation in flight is a receive FIFO clear; `waiting` narrows it to step F3. -/
def State.inRxClear (s : State) (waiting : Bool) : Bool :=
  match s.hostop with
  | some ⟨_, .clrRx next _⟩ => !waiting || next == .f3
  | _ => false

/-- The operation in flight belongs to the holder, excludes a held `CLOSE`, and a FIFO clear keeps its direction
disabled from F1 to F4, a clear being pending only at F3 (R27, R90, R135). -/
abbrev State.HostInv (s : State) : Prop :=
  (s.hostop.isSome = true → s.holder = s.hostop.map HostOp.proc ∧ s.held = none) ∧
  (s.held.isSome = true → s.holder = s.held) ∧
  (s.inTxClear false = true → s.csTxon = false) ∧
  (s.inRxClear false = true → s.csRxon = false) ∧
  (s.txclrPending = true → s.inTxClear true = true) ∧
  (s.rxclrPending = true → s.inRxClear true = true)

/-- In a ready block every flag whose condition and enable hold is set (R21). -/
abbrev State.LatchInv (s : State) : Prop :=
  s.power = .ready →
    (s.txfifo.length < s.cfg.txReadyLevel → s.intenTxw = true → s.intstcTxw = true) ∧
    (s.cfg.rxReadyLevel ≤ s.rxfifo.length → s.intenRxr = true → s.intstcRxr = true)

/-- The invariant of the block: the parameters meet R5, and all of the above. -/
structure State.Inv (s : State) : Prop where
  config : s.cfg.wf
  storage : s.StorageInv
  counters : s.CounterInv
  session : s.SessionInv
  service : s.ServiceInv
  host : s.HostInv
  latch : s.LatchInv

end Sys2Proof.Machine
end

