-- ==== Sys2Proof/Certificates/Slice0/Obligations.lean ====
section
/-! DEFINITION. The statements for the provers. Every statement about an operation that ends in a whole state written out
as a record update of the state before states the operation's frame as well: every field not named is unchanged. -/

open Sys2Proof Sys2Proof.Machine

/-! ## Encoding (30_encoding.md) -/

/-- The requests V1 to V11 of 95_test_vectors.md, all of them, written out from the tables of R62 and R63, decode as the
vectors say; a refusal's reason is the model's name for the clause of R68.
The encoding is the spec's decision (D14, D15, D17; log 20). -/
def Obligations.SpecWordsDecode : Prop :=
  decode ⟨0x00000000#32, 0#32, []⟩ = .ok .openSession ∧
  decode ⟨0x00000000#32, 0xFFFFFFFF#32, []⟩ = .ok .openSession ∧
  decode ⟨0x10000000#32, 0#32, []⟩ = .ok .closeSession ∧
  decode ⟨0x20000000#32, 0xA0#32, []⟩ = .ok (.read 160#32) ∧
  decode ⟨0x30000000#32, 2#32, [0x07#8, 0x00#8]⟩ = .ok (.write [7#8, 0#8]) ∧
  decode ⟨0x30000000#32, 3#32, [0x07#8, 0x00#8]⟩ = .error .lengthMismatch ∧
  decode ⟨0x40000000#32, 0#32, []⟩ = .ok .getTxSpace ∧
  decode ⟨0x40000001#32, 0#32, []⟩ = .ok .getRxCount ∧
  decode ⟨0x40000002#32, 0#32, []⟩ = .ok .clrTxFifo ∧
  decode ⟨0x40000003#32, 0#32, []⟩ = .ok .clrRxFifo ∧
  decode ⟨0x40000004#32, 0#32, []⟩ = .ok (.setEn 0#32) ∧
  decode ⟨0x40000005#32, 0#32, []⟩ = .ok (.setTxEn 0#32) ∧
  decode ⟨0x40000006#32, 0#32, []⟩ = .ok (.setRxEn 0#32) ∧
  decode ⟨0x40000007#32, 0#32, []⟩ = .ok .clrTxRing ∧
  decode ⟨0x40000008#32, 0#32, []⟩ = .ok .clrRxRing ∧
  decode ⟨0x40000009#32, 0#32, []⟩ = .error .unrecognizedCommand ∧
  decode ⟨0x4FFFFFFF#32, 1#32, []⟩ = .error .unrecognizedCommand ∧
  decode ⟨0x50000000#32, 0#32, []⟩ = .error .reservedClass ∧
  decode ⟨0xF0000000#32, 0#32, []⟩ = .error .reservedClass ∧
  decode ⟨0x00000001#32, 0#32, []⟩ = .error .nonzeroCode ∧
  decode ⟨0x10000001#32, 0#32, []⟩ = .error .nonzeroCode ∧
  decode ⟨0x20000001#32, 4#32, []⟩ = .error .nonzeroCode

/-- Decoding an encoded well-formed instruction gives it back, every operand at every value. -/
def Obligations.DecodeEncodeRoundTrip : Prop :=
  ∀ i : Instr, i.wellFormed = true → decode (encode i) = .ok i

/-- The decoder of R68 on every request: with `cls` and `code` the two fields of the header as numbers, each row of the
pseudocode, and `Illegal` exactly for the rest, whatever the ignored words are.
The command numbers are R63's, the spec's decision (D15; log 20). -/
def Obligations.DecoderIsTotal : Prop :=
  ∀ (r : Request) (cls code : Nat), cls = r.hdr.toNat / 2 ^ 28 → code = r.hdr.toNat % 2 ^ 28 →
    (cls = 0 → code = 0 → decode r = .ok .openSession) ∧
    (cls = 1 → code = 0 → decode r = .ok .closeSession) ∧
    (cls = 2 → code = 0 → decode r = .ok (.read r.arg)) ∧
    (cls = 3 → code = 0 → r.arg.toNat = r.payload.length → decode r = .ok (.write r.payload)) ∧
    (cls = 4 → code = 0 → decode r = .ok .getTxSpace) ∧
    (cls = 4 → code = 1 → decode r = .ok .getRxCount) ∧
    (cls = 4 → code = 2 → decode r = .ok .clrTxFifo) ∧
    (cls = 4 → code = 3 → decode r = .ok .clrRxFifo) ∧
    (cls = 4 → code = 4 → decode r = .ok (.setEn r.arg)) ∧
    (cls = 4 → code = 5 → decode r = .ok (.setTxEn r.arg)) ∧
    (cls = 4 → code = 6 → decode r = .ok (.setRxEn r.arg)) ∧
    (cls = 4 → code = 7 → decode r = .ok .clrTxRing) ∧
    (cls = 4 → code = 8 → decode r = .ok .clrRxRing) ∧
    ((∃ e, decode r = .error e) ↔
      (5 ≤ cls ∨ (cls ≤ 3 ∧ code ≠ 0) ∨ (cls = 3 ∧ r.arg.toNat ≠ r.payload.length) ∨ (cls = 4 ∧ 9 ≤ code)))

/-- The textual line of a well-formed instruction assembles to it (R72).
The mnemonics are the spec's decision (D39; log 20, 31). -/
def Obligations.TextAssemblesBack : Prop :=
  ∀ i : Instr, i.wellFormed = true → assemble i.text.1 i.text.2 = some i

/-! ## The step -/

/-- When the next move issues a request that decodes to `i`, the step is `exec i` at the state in which that move has
been taken from the schedule and its process stands on the port, followed by the latches of R21 and R22.
The schedule and the process on the port are the model's (log 3, 7). -/
def Obligations.StepRunsDecodedRequest : Prop :=
  ∀ (s : State) (p : ProcId) (r : Request) (rest : List Move) (i : Instr),
    s.sched = .issue p r :: rest → decode r = .ok i →
    step s = settleOutcome (exec i { s with sched := rest, caller := p })

/-- What follows every step (R21; the edge is R22's): whatever move took the block from `s` to `t`, each flag whose
condition and enable hold in `t` is set, no flag is cleared, `svc_pending` is set by a rising edge of the line while
the routine is registered, and nothing else changes.
The latching is the spec's decision (D7; log 20, 25, 33). -/
def Obligations.LatchesFollowEveryStep : Prop :=
  ∀ s t : State, s.afterChoice.act s.nextMove = .next t → t.power = .ready →
    ∃ u : State, step s = .next u ∧
      u = { t with intstcTxw := u.intstcTxw, intstcRxr := u.intstcRxr, svcPending := u.svcPending } ∧
      (u.intstcTxw = true ↔
        t.intstcTxw = true ∨ (t.txfifo.length < t.cfg.txReadyLevel ∧ t.intenTxw = true)) ∧
      (u.intstcRxr = true ↔
        t.intstcRxr = true ∨ (t.cfg.rxReadyLevel ≤ t.rxfifo.length ∧ t.intenRxr = true)) ∧
      (u.svcPending = true ↔
        t.svcPending = true ∨ (t.isrRegistered = true ∧ t.irqLine = false ∧ u.irqLine = true))

/-- Which requests the host cannot issue (R135; the refusals are U1's treatment, log 9): every operation but `OPEN`,
in a ready block, from a closed session, a process that is not the holder, or over another request of the holder. -/
def Obligations.OnlyTheHolderMayIssue : Prop :=
  ∀ (i : Instr) (s : State), i ≠ .openSession → s.power = .ready →
    (s.inUse = false → exec i s = .refused .sessionClosed) ∧
    (s.inUse = true → s.holder ≠ some s.caller → exec i s = .refused .notHolder) ∧
    (s.inUse = true → s.holder = some s.caller → (s.hostop ≠ none ∨ s.held ≠ none) →
      exec i s = .refused .requestInFlight)

/-- An `Illegal` request answers `InvalidArgument(0, [])` and changes nothing (R69). The process that issued it stands
on the port.
But for unrecognized commands the answer is the spec's decision (D17; log 20, 34). -/
def Obligations.IllegalRequestAnswered : Prop :=
  ∀ (s : State) (r : Request) (e : Illegal), s.Issuable → decode r = .error e →
    s.issue s.caller r = .next (s.answered s.caller .invalidArgument 0#32 [])

/-- A block that is not ready (R31, R201, U11): in `Failed` every step and every operation stops with the named fault; in
`Off` the host port accepts no request, which the model answers with a refusal (log 10). -/
def Obligations.UnreadyBlockRunsNoOperation : Prop :=
  ∀ s : State,
    (s.power = .failed → step s = .fault .initializationFailed ∧
      ∀ i : Instr, exec i s = .fault .initializationFailed) ∧
    (s.power = .off → ∀ i : Instr, exec i s = .refused .blockOff)

/-! ## Session entry points (43_session_entry.md) -/

/-- `OPEN` in a ready block (R130, R181): on a closed session the issuer becomes the holder, the counters are reset,
the routine is registered with a line already high counting as an edge, and the usage reference rises; on an open
session it answers `Busy` and nothing changes.
That the rings stay is the spec's decision (D19; log 20, 28). -/
def Obligations.OpenAnswers : Prop :=
  ∀ s : State, s.power = .ready →
    (s.inUse = false → exec .openSession s = .next
      { s with
        inUse := true
        holder := some s.caller
        txUnderflow := 0
        rxOverflow := 0
        isrRegistered := true
        svcPending := s.intstcTxw || s.intstcRxr
        usageRef := s.usageRef + 1
        responses := s.responses ++ [(s.caller, ⟨.ok, 0#32, []⟩)] }) ∧
    (s.inUse = true → exec .openSession s = .next (s.answered s.caller .busy 0#32 []))

/-- `CLOSE` of an issuable request (R131). With the service routine not running it completes. While the routine runs it
is held on the port, which is the model's field `held` (log 6), a further look at it changes nothing, and once the
routine is not running the next look completes it.
The hold is the spec's decision (D26; log 20). -/
def Obligations.CloseCompletesOutsideService : Prop :=
  ∀ s : State,
    (s.Issuable → s.inService = false → exec .closeSession s = .next
      { s with
        isrRegistered := false
        svcPending := false
        txUnderflow := 0
        rxOverflow := 0
        usageRef := s.usageRef - 1
        inUse := false
        holder := none
        responses := s.responses ++ [(s.caller, ⟨.ok, 0#32, []⟩)] }) ∧
    (s.Issuable → s.inService = true → exec .closeSession s = .next { s with held := some s.caller }) ∧
    (∀ p, s.power = .ready → s.hostop = none → s.held = some p → s.inService = true →
      s.act .host = .next s) ∧
    (∀ p, s.power = .ready → s.hostop = none → s.held = some p → s.inService = false →
      s.act .host = .next
        { s with
          isrRegistered := false
          svcPending := false
          txUnderflow := 0
          rxOverflow := 0
          usageRef := s.usageRef - 1
          inUse := false
          holder := none
          held := none
          responses := s.responses ++ [(p, ⟨.ok, 0#32, []⟩)] })

/-- `READ`, every step (R132). The first (RD0 and the first RD1): nothing wanted or an empty ring, it responds at once
with no bytes and the ring is untouched; otherwise the oldest sample is taken, `tail` advances modulo `N_RX + 1`, and
the operation is in flight. Each later RD1, whatever other agents did in between: with nothing more wanted or an empty
ring it responds with the bytes collected and their number, otherwise it takes one more sample.
That RD0 and the first RD1 are one step is the model's choice among those R132 allows (log 16). -/
def Obligations.ReadStartsAndContinues : Prop :=
  (∀ (s : State) (maxBytes : Word), s.Issuable →
    ((maxBytes = 0#32 ∨ s.rxring.head = s.rxring.tail) →
      exec (.read maxBytes) s = .next (s.answered s.caller .ok 0#32 [])) ∧
    (maxBytes ≠ 0#32 → s.rxring.head ≠ s.rxring.tail →
      exec (.read maxBytes) s = .next
        { s with
          rxring := { s.rxring with tail := (s.rxring.tail + 1) % (s.cfg.nRx + 1) }
          hostop := some ⟨s.caller, .read (maxBytes.toNat - 1) [s.rxring.slot s.rxFree s.rxring.tail]⟩ })) ∧
  (∀ (s : State) (p : ProcId) (wanted : Nat) (got : List Byte), s.power = .ready →
    s.hostop = some ⟨p, .read wanted got⟩ →
    ((wanted = 0 ∨ s.rxring.head = s.rxring.tail) →
      s.act .host = .next { s.answered p .ok (BitVec.ofNat 32 got.length) got with hostop := none }) ∧
    (wanted ≠ 0 → s.rxring.head ≠ s.rxring.tail →
      s.act .host = .next
        { s with
          rxring := { s.rxring with tail := (s.rxring.tail + 1) % (s.cfg.nRx + 1) }
          hostop := some ⟨p, .read (wanted - 1) (got ++ [s.rxring.slot s.rxFree s.rxring.tail])⟩ }))

/-- `READ` alone on the block (R132): with no other agent between its steps it returns the oldest
`min(maxBytes, itemCount)` samples in order, with that number as value, takes exactly those from the ring, and changes
nothing else. The state is settled, so that the latches add nothing.
The number of host moves counts RD0 and the first RD1 as one step (log 16). -/
def Obligations.ReadReturnsOldestSamples : Prop :=
  ∀ (s : State) (maxBytes : Word) (n : Nat), s.Issuable → s.Settled → s.sched = [] → s.rxring.Ok s.cfg.nRx →
    n = min maxBytes.toNat (s.rxring.itemCount s.cfg.nRx) →
    s.runMoves (.issue s.caller (encode (.read maxBytes)) :: List.replicate n .host) = .next
      { s with
        rxring := { s.rxring with tail := (s.rxring.tail + n) % (s.cfg.nRx + 1) }
        responses := s.responses ++ [(s.caller, ⟨.ok, BitVec.ofNat 32 n, s.rxContents.take n⟩)] }

/-- `WRITE`, step W0 (R133): `WouldBlock` with nothing written when the ring reports no remaining space, else the
operation is in flight at its first byte. -/
def Obligations.WriteStarts : Prop :=
  ∀ (s : State) (payload : List Byte), s.Issuable →
    (s.txring.remainingSpace s.cfg.nTx = 0 →
      exec (.write payload) s = .next (s.answered s.caller .wouldBlock 0#32 [])) ∧
    (s.txring.remainingSpace s.cfg.nTx ≠ 0 →
      exec (.write payload) s = .next { s with hostop := some ⟨s.caller, .write payload 0⟩ })

/-- `WRITE`, every step W1 (R133) of the operation in flight, whatever other agents did in between. With a byte left: on
a full ring the sample is dropped; otherwise it is stored at the old `head`, every other slot reads as before, `head`
advances, and nothing else changes. With none left (`k = n`): it responds with the number of bytes attempted.
The attempted count is the spec's decision (D27; log 20, 28). -/
def Obligations.WriteStoresOneSampleOrResponds : Prop :=
  (∀ (s : State) (p : ProcId) (payload : List Byte) (k : Nat) (sample : Byte), s.power = .ready →
    s.hostop = some ⟨p, .write payload k⟩ → payload[k]? = some sample →
    ∃ t : State, s.act .host = .next t ∧
      t = { s with hostop := some ⟨p, .write payload (k + 1)⟩, txring := t.txring } ∧
      t.txring.tail = s.txring.tail ∧
      ((s.txring.head + 1) % (s.cfg.nTx + 1) = s.txring.tail → t.txring = s.txring) ∧
      ((s.txring.head + 1) % (s.cfg.nTx + 1) ≠ s.txring.tail →
        t.txring.head = (s.txring.head + 1) % (s.cfg.nTx + 1) ∧
        t.txring.slots.read s.txring.head = some sample ∧
        ∀ a, a ≠ s.txring.head → t.txring.slots.read a = s.txring.slots.read a)) ∧
  (∀ (s : State) (p : ProcId) (payload : List Byte), s.power = .ready →
    s.hostop = some ⟨p, .write payload payload.length⟩ →
    s.act .host = .next { s.answered p .ok (BitVec.ofNat 32 payload.length) [] with hostop := none })

/-- `WRITE` alone on the block (R133): with free space and no other agent between its steps, the first
`min(n, remainingSpace)` bytes are appended to the ring in payload order, the rest are dropped, the response carries
the number attempted, and nothing but the transmit ring and the responses changes.
The attempted count is the spec's decision (D27; log 20, 28). -/
def Obligations.WriteAppendsInOrder : Prop :=
  ∀ (s : State) (payload : List Byte), s.Issuable → s.Settled → s.sched = [] → s.txring.Ok s.cfg.nTx →
    payload.length < 4294967296 → s.txring.remainingSpace s.cfg.nTx ≠ 0 →
    ∃ t : State,
      s.runMoves (.issue s.caller (encode (.write payload)) :: List.replicate (payload.length + 1) .host) =
        .next t ∧
      t = { s with
            txring := t.txring
            responses := s.responses ++ [(s.caller, ⟨.ok, BitVec.ofNat 32 payload.length, []⟩)] } ∧
      t.txring.tail = s.txring.tail ∧
      t.txContents = s.txContents ++ payload.take (s.txring.remainingSpace s.cfg.nTx)

/-! ## Commands (44_commands.md) -/

/-- The two queries (R141, R142) answer the counts, exact as 32-bit values (R5, R67), and write nothing. -/
def Obligations.QueriesAnswerCounts : Prop :=
  ∀ s : State, s.Issuable → s.cfg.wf →
    (∃ value : Word, exec .getTxSpace s = .next (s.answered s.caller .ok value []) ∧
      value.toNat = s.txring.remainingSpace s.cfg.nTx) ∧
    (∃ value : Word, exec .getRxCount s = .next (s.answered s.caller .ok value []) ∧
      value.toNat = s.rxring.itemCount s.cfg.nRx)

/-- The three enable commands (R145, R146, R147): argument 0 or 1 sets the one field; any other answers
`InvalidArgument` and changes nothing (R151). -/
def Obligations.EnableCommandsSetTheirField : Prop :=
  ∀ (s : State) (arg : Word), s.Issuable →
    ((arg = 0#32 ∨ arg = 1#32) →
      exec (.setEn arg) s =
        .next { s.answered s.caller .ok 0#32 [] with csEn := decide (arg = 1#32) } ∧
      exec (.setTxEn arg) s =
        .next { s.answered s.caller .ok 0#32 [] with csTxon := decide (arg = 1#32) } ∧
      exec (.setRxEn arg) s =
        .next { s.answered s.caller .ok 0#32 [] with csRxon := decide (arg = 1#32) }) ∧
    (arg ≠ 0#32 → arg ≠ 1#32 →
      exec (.setEn arg) s = .next (s.answered s.caller .invalidArgument 0#32 []) ∧
      exec (.setTxEn arg) s = .next (s.answered s.caller .invalidArgument 0#32 []) ∧
      exec (.setRxEn arg) s = .next (s.answered s.caller .invalidArgument 0#32 []))

/-- The two ring clears (R148, R149): both indices become 0 in one step, no slot changes, nothing else does. The spec's
default treatment of U3 (an atomic `clear`) is what makes this hold beside a running engine (log 17). -/
def Obligations.RingClearsResetIndices : Prop :=
  ∀ s : State, s.Issuable →
    exec .clrTxRing s =
      .next { s.answered s.caller .ok 0#32 [] with txring := ⟨s.txring.slots, 0, 0⟩ } ∧
    exec .clrRxRing s =
      .next { s.answered s.caller .ok 0#32 [] with rxring := ⟨s.rxring.slots, 0, 0⟩ }

/-- Step F1 of the two FIFO clears (R143, R144): the enable is saved and the direction disabled. -/
def Obligations.FifoClearDisablesFirst : Prop :=
  ∀ s : State, s.Issuable →
    exec .clrTxFifo s =
      .next { s with csTxon := false, hostop := some ⟨s.caller, .clrTx .f2 s.csTxon⟩ } ∧
    exec .clrRxFifo s =
      .next { s with csRxon := false, hostop := some ⟨s.caller, .clrRx .f2 s.csRxon⟩ }

/-- `CLR_TX_FIFO` beside the clear unit (R143): with the clock running and the schedule F1, F2, `ClearTx`, F3, F4, the
transmit FIFO ends empty, the enable is what it was, nothing else changes but the latches, and the response is `Ok`.
Restoring the enable, waiting for the effect and the latching are the spec's decisions (D20, D21, D7; log 20). -/
def Obligations.TxFifoClearCompletes : Prop :=
  ∀ s : State, s.Issuable → s.Settled → s.sched = [] → s.clockRunning = true →
    s.runMoves [.issue s.caller (encode .clrTxFifo), .host, .clearTx, .host, .host] = .next
      (State.settle
        { s with
          txfifo := []
          txclrPending := false
          responses := s.responses ++ [(s.caller, ⟨.ok, 0#32, []⟩)] })

/-- `CLR_RX_FIFO` beside the clear unit (R144): likewise for the receive FIFO and its enable; the ready condition only
falls, so that no latch changes.
The decisions are those of `CLR_TX_FIFO` (D20, D21; log 20). -/
def Obligations.RxFifoClearCompletes : Prop :=
  ∀ s : State, s.Issuable → s.Settled → s.sched = [] → s.clockRunning = true →
    s.runMoves [.issue s.caller (encode .clrRxFifo), .host, .clearRx, .host, .host] = .next
      { s with
        rxfifo := []
        rxclrPending := false
        responses := s.responses ++ [(s.caller, ⟨.ok, 0#32, []⟩)] }

/-- With the clock down a requested FIFO clear never returns (R211, R143 corner case b, R144): whatever moves are taken,
as long as none of them is `clockUp`, `CLR_TX_FIFO` and `CLR_RX_FIFO` alike stay at F3 with their clear pending and get
no response (an `OPEN` of the same process is answered `Busy`); `txfifo` loses no word and `rxfifo` gains none.
The wait for the effect is the spec's decision (D21; log 20). -/
def Obligations.ClearNeverReturnsWithoutClock : Prop :=
  ∀ (s t : State) (p : ProcId) (saved : Bool) (moves : List Move), s.Inv → s.power = .ready →
    s.clockRunning = false → Move.clockUp ∉ moves → s.runMoves moves = .next t →
    (s.hostop = some ⟨p, .clrTx .f3 saved⟩ → s.txclrPending = true →
      t.hostop = some ⟨p, .clrTx .f3 saved⟩ ∧ t.txclrPending = true ∧ s.txfifo.length ≤ t.txfifo.length ∧
        ∀ e ∈ t.responses.drop s.responses.length, e.1 = p → e.2.status = .busy) ∧
    (s.hostop = some ⟨p, .clrRx .f3 saved⟩ → s.rxclrPending = true →
      t.hostop = some ⟨p, .clrRx .f3 saved⟩ ∧ t.rxclrPending = true ∧ t.rxfifo.length ≤ s.rxfifo.length ∧
        ∀ e ∈ t.responses.drop s.responses.length, e.1 = p → e.2.status = .busy)

/-! ## Rings (41_ring_buffer.md) -/

/-- `tryRead` (R101) and `tryWrite` (R102) as their pseudocode has them, on any indices in `0..N`, whatever unwritten
slots hold: `None` on an empty ring and `Full` on a full one, neither with a ring after it; otherwise the sample at the
old `tail` and `tail` alone advanced, the ring not full afterwards; or the sample stored in the slot at the old `head`
and `head` alone advanced, the ring not empty afterwards. -/
def Obligations.RingPrimitivesFollowTheirRules : Prop :=
  ∀ (n : Nat) (free : Nat → Byte) (r : Ring) (sample : Byte), 1 ≤ n → r.head ≤ n → r.tail ≤ n →
    (r.head = r.tail → r.tryRead n free = none) ∧
    (r.head ≠ r.tail →
      r.tryRead n free = some (r.slot free r.tail, { r with tail := (r.tail + 1) % (n + 1) }) ∧
      (r.head + 1) % (n + 1) ≠ (r.tail + 1) % (n + 1)) ∧
    ((r.head + 1) % (n + 1) = r.tail → r.tryWrite n sample = none) ∧
    ((r.head + 1) % (n + 1) ≠ r.tail →
      ∃ r', r.tryWrite n sample = some r' ∧ r'.head = (r.head + 1) % (n + 1) ∧ r'.tail = r.tail ∧
        (∀ a, r'.slot free a = if a = r.head then sample else r.slot free a) ∧ r'.head ≠ r'.tail)

/-- `tryWrite` (R102): `Full` exactly on a full ring; otherwise the sample stands in the slot at the old `head`, every
other slot and `tail` are unchanged, `head` advances modulo `N + 1`, the sample is the newest of the contents, the count
rises by one, and the ring stays within its bounds.
The clauses on the count (R103), the contents and the bounds are the spec's own derivations (R33, R106); that the
storage stays canonical is the model's form (log 13). -/
def Obligations.TryWriteAppends : Prop :=
  ∀ (n : Nat) (free : Nat → Byte) (r : Ring) (sample : Byte), 1 ≤ n → r.Ok n →
    (r.tryWrite n sample = none ↔ (r.head + 1) % (n + 1) = r.tail) ∧
    (r.tryWrite n sample = none ↔ r.itemCount n = n) ∧
    ∀ r', r.tryWrite n sample = some r' →
      r'.head = (r.head + 1) % (n + 1) ∧ r'.tail = r.tail ∧
      (∀ a, r'.slot free a = if a = r.head then sample else r.slot free a) ∧
      r'.Ok n ∧ r'.contents n free = r.contents n free ++ [sample] ∧ r'.itemCount n = r.itemCount n + 1

/-- `tryRead` (R101): `None` exactly on an empty ring; otherwise it returns the sample at the old `tail`, the oldest of
the contents, advances `tail` modulo `N + 1`, writes nothing else, and leaves the rest of the contents.
The clauses on the count (R103), the contents and the bounds are the spec's own derivations (R33, R106); that the
storage stays canonical is the model's form (log 13). -/
def Obligations.TryReadTakesOldest : Prop :=
  ∀ (n : Nat) (free : Nat → Byte) (r : Ring), 1 ≤ n → r.Ok n →
    (r.tryRead n free = none ↔ r.head = r.tail) ∧
    (r.tryRead n free = none ↔ r.itemCount n = 0) ∧
    ∀ sample r', r.tryRead n free = some (sample, r') →
      sample = r.slot free r.tail ∧ r' = { r with tail := (r.tail + 1) % (n + 1) } ∧
      r'.Ok n ∧ r.contents n free = sample :: r'.contents n free ∧ r.itemCount n = r'.itemCount n + 1

/-- The ring's counts (R103, R104, R106 a and d): never more than `n`, together always `n`, zero space exactly when
full, `n` exactly when empty.
The bound, the sum and the two last clauses are the spec's own derivations (R104, R106). -/
def Obligations.RingCountsAgree : Prop :=
  ∀ (n : Nat) (r : Ring), 1 ≤ n → r.head ≤ n → r.tail ≤ n →
    r.itemCount n ≤ n ∧ r.itemCount n + r.remainingSpace n = n ∧
    (r.itemCount n : Int) = ((r.head : Int) - (r.tail : Int)) % ((n : Int) + 1) ∧
    (r.remainingSpace n = 0 ↔ (r.head + 1) % (n + 1) = r.tail) ∧
    (r.remainingSpace n = n ↔ r.head = r.tail)

/-- Round trip (R106 b): from an empty ring at any index, writing `k ≤ n` samples succeeds each time, and reading `k`
samples returns them in the order written, across the end of the storage. -/
def Obligations.RingRoundTrip : Prop :=
  ∀ (n : Nat) (free : Nat → Byte) (r : Ring) (samples : List Byte), 1 ≤ n → r.Ok n → r.head = r.tail →
    samples.length ≤ n →
    ∃ full empty : Ring,
      samples.foldlM (fun q b => q.tryWrite n b) r = some full ∧
      full.itemCount n = samples.length ∧
      samples.foldlM (fun (q : Ring) b =>
        match q.tryRead n free with
        | some (b', q') => if b' = b then some q' else none
        | none => none) full = some empty ∧
      empty.itemCount n = 0

/-! ## Registers and FIFOs (40_register_interface.md) -/

/-- The registers read right after reset, in every configuration that meets R5 (R12, R32; the reset values are those of
R32 and of the parameters): `CS` 0x000A0001, `INTEN` 3, `INTSTC` 1, the opaque registers their images.
Reset values, bit positions and the latch that sets `INTSTC.TXW` are the spec's decisions (D2, D3, D7, D22, D23; log 20,
21). -/
def Obligations.ResetRegistersRead : Prop :=
  ∀ c : Config, c.wf →
    (State.resetWith c).readRegister .cs = (0x000A0001#32, State.resetWith c) ∧
    (State.resetWith c).readRegister .inten = (3#32, State.resetWith c) ∧
    (State.resetWith c).readRegister .intstc = (1#32, State.resetWith c) ∧
    (State.resetWith c).readRegister .mode = (c.modeInit, State.resetWith c) ∧
    (State.resetWith c).readRegister .rxc = (c.rxcInit, State.resetWith c) ∧
    (State.resetWith c).readRegister .txc = (c.txcInit, State.resetWith c) ∧
    (State.resetWith c).readRegister .dreq = (c.dreqInit, State.resetWith c) ∧
    (State.resetWith c).readRegister .gray = (c.grayInit, State.resetWith c)

/-- The word read from `CS`, bit by bit (R85): the nine fields at their positions, every other bit 0.
The positions are the spec's decision (D2; log 20). -/
def Obligations.CsWordBits : Prop :=
  ∀ s : State,
    (s.readRegister .cs).2 = s ∧
    (s.readRegister .cs).1.getLsbD 0 = s.csEn ∧
    (s.readRegister .cs).1.getLsbD 1 = s.csRxon ∧
    (s.readRegister .cs).1.getLsbD 2 = s.csTxon ∧
    (s.readRegister .cs).1.getLsbD 3 = s.txclrPending ∧
    (s.readRegister .cs).1.getLsbD 4 = s.rxclrPending ∧
    (s.readRegister .cs).1.getLsbD 17 = decide (s.txfifo.length < s.cfg.txReadyLevel) ∧
    (s.readRegister .cs).1.getLsbD 18 = decide (s.cfg.rxReadyLevel ≤ s.rxfifo.length) ∧
    (s.readRegister .cs).1.getLsbD 19 = decide (s.txfifo.length < s.cfg.hwFifoDepth) ∧
    (s.readRegister .cs).1.getLsbD 20 = decide (0 < s.rxfifo.length) ∧
    ∀ i, i ∉ [0, 1, 2, 3, 4, 17, 18, 19, 20] → (s.readRegister .cs).1.getLsbD i = false

/-- A field update is the read-modify-write of `CS` (R84): the word read, one bit changed, the other enable bits
unchanged and the other clear-request bits 0, written back by R86.
That it is one step is the spec's decision (D25; log 20). -/
def Obligations.FieldUpdateIsReadModifyWrite : Prop :=
  ∀ (s : State) (f : CsField) (b : Bool) (v : Word),
    (∀ i, i < 5 → v.getLsbD i =
      (if i = f.bit then b else decide (i < 3) && (s.readRegister .cs).1.getLsbD i)) →
    s.csUpdate f b = s.writeRegister .cs v

/-- Write of `INTSTC` (R87), with the latches that follow in the same step: a flag is 1 afterwards exactly if it was
not written 1 and was set, or its condition and enable hold; a line that had fallen to 0 and is up again is a new edge
while the routine is registered; nothing else changes.
Both are the spec's decisions (D3, D7; log 20). -/
def Obligations.IntstcWriteOneToClear : Prop :=
  ∀ (s u : State) (v : Word), s.power = .ready → u = (s.writeRegister .intstc v).settle →
    u = { s with intstcTxw := u.intstcTxw, intstcRxr := u.intstcRxr, svcPending := u.svcPending } ∧
    (u.intstcTxw = true ↔ (s.intstcTxw = true ∧ v.getLsbD 0 = false) ∨
      (s.txfifo.length < s.cfg.txReadyLevel ∧ s.intenTxw = true)) ∧
    (u.intstcRxr = true ↔ (s.intstcRxr = true ∧ v.getLsbD 1 = false) ∨
      (s.cfg.rxReadyLevel ≤ s.rxfifo.length ∧ s.intenRxr = true)) ∧
    (u.svcPending = true ↔ s.svcPending = true ∨
      (s.isrRegistered = true ∧ (s.intstcTxw = false ∨ v.getLsbD 0 = true) ∧
        (s.intstcRxr = false ∨ v.getLsbD 1 = true) ∧ (u.intstcTxw = true ∨ u.intstcRxr = true)))

/-- Writes of the registers that hold state, through the primitive (R14, R15, R81, R86, R87) and before the latches that
follow every step; `FIFO` is in `FifoAccesses`. A whole-word write of `CS` sets the three enables, requests the clears
written 1 and cancels none, and reads back with these five bits and every other bit as before; `INTEN` takes its two bits
and `INTSTC` loses the flags written 1, and each reads back what it holds (reserved bits read 0); an opaque register
takes all 32 bits. Each changes nothing else. No agent writes `CS` whole; for a word that requests the clear of an
enabled direction the spec has no meaning (R90, U4), and the primitive's effect on it is the model's (log 18).
The fields are the spec's decisions (D2, D3; log 20). -/
def Obligations.RegisterWritesReadBack : Prop :=
  ∀ (s : State) (v : Word),
    s.writeRegister .cs v =
      { s with
        csEn := v.getLsbD 0
        csRxon := v.getLsbD 1
        csTxon := v.getLsbD 2
        txclrPending := if v.getLsbD 3 = true then true else s.txclrPending
        rxclrPending := if v.getLsbD 4 = true then true else s.rxclrPending } ∧
    (∀ i, ((s.writeRegister .cs v).readRegister .cs).1.getLsbD i =
      if i < 3 then v.getLsbD i
      else if i < 5 then v.getLsbD i || (s.readRegister .cs).1.getLsbD i
      else (s.readRegister .cs).1.getLsbD i) ∧
    s.writeRegister .mode v = { s with mode := v } ∧ ((s.writeRegister .mode v).readRegister .mode).1 = v ∧
    s.writeRegister .rxc v = { s with rxc := v } ∧ ((s.writeRegister .rxc v).readRegister .rxc).1 = v ∧
    s.writeRegister .txc v = { s with txc := v } ∧ ((s.writeRegister .txc v).readRegister .txc).1 = v ∧
    s.writeRegister .dreq v = { s with dreq := v } ∧ ((s.writeRegister .dreq v).readRegister .dreq).1 = v ∧
    s.writeRegister .gray v = { s with gray := v } ∧ ((s.writeRegister .gray v).readRegister .gray).1 = v ∧
    s.writeRegister .inten v = { s with intenTxw := v.getLsbD 0, intenRxr := v.getLsbD 1 } ∧
    ((s.writeRegister .inten v).readRegister .inten).1 = v &&& 3#32 ∧
    s.writeRegister .intstc v =
      { s with
        intstcTxw := if v.getLsbD 0 = true then false else s.intstcTxw
        intstcRxr := if v.getLsbD 1 = true then false else s.intstcRxr } ∧
    ((s.writeRegister .intstc v).readRegister .intstc).1 = (s.readRegister .intstc).1 &&& ~~~v

/-- The two FIFO accesses (R82, R83): a write appends its word, or nothing on a full FIFO; a read of a non-empty FIFO
returns and removes the oldest word; a read of an empty FIFO removes nothing, whatever word it returns (the counter of
free words is the model's, log 11).
The two limits are the spec's decision (D13; log 20). -/
def Obligations.FifoAccesses : Prop :=
  ∀ (s : State) (w : Word),
    (s.txfifo.length < s.cfg.hwFifoDepth → s.writeRegister .fifo w = { s with txfifo := s.txfifo ++ [w] }) ∧
    (s.cfg.hwFifoDepth ≤ s.txfifo.length → s.writeRegister .fifo w = s) ∧
    (∀ rest, s.rxfifo = w :: rest → s.readRegister .fifo = (w, { s with rxfifo := rest })) ∧
    (s.rxfifo = [] → (s.readRegister .fifo).2 = { s with draws := s.draws + 1 })

/-- What no step changes: the parameters (R10), in every step; and the registers `MODE`, `RXC`, `TXC`, `DREQ`, `GRAY` and
the interrupt enables (R14, R15: no operation writes them), in a block that stays ready, reset event and teardown
apart. -/
def Obligations.ParametersAndOpaqueRegistersKeepTheirValue : Prop :=
  ∀ s t : State, step s = .next t →
    t.cfg = s.cfg ∧
    (s.power = .ready → t.power = .ready →
      t.mode = s.mode ∧ t.rxc = s.rxc ∧ t.txc = s.txc ∧ t.dreq = s.dreq ∧ t.gray = s.gray ∧
      t.intenTxw = s.intenTxw ∧ t.intenRxr = s.intenRxr)

/-! ## Serial side, clear unit, clock (40_register_interface.md, 45_call_session.md) -/

/-- `TxTick` (R92): enabled exactly as the rule says it moves the oldest word to the line, else nothing happens.
The line side is the spec's decision (D24; log 20); that a move not enabled passes is the model's (log 4). -/
def Obligations.TxTickMovesOneSample : Prop :=
  ∀ s : State, s.power ≠ .failed →
    (∀ w rest, s.power = .ready → s.clockRunning = true → s.csEn = true → s.csTxon = true →
      s.txfifo = w :: rest →
      s.act .txTick = .next { s with txfifo := rest, lineOut := s.lineOut ++ [w.setWidth 8] }) ∧
    ((s.power = .off ∨ s.clockRunning = false ∨ s.csEn = false ∨ s.csTxon = false ∨ s.txfifo = []) →
      s.act .txTick = .next s)

/-- `RxTick` (R93): a sample arrives, the next of the finite part of the line or, once that is used up, of the endless
part, whose values are free (R4; log 19). It is stored zero-extended if the block and the receiver are enabled and the
FIFO has room, else it is lost; without the clock or a sample nothing happens.
The line side is the spec's decision (D24; log 20); that a move not enabled passes is the model's (log 4). -/
def Obligations.RxTickTakesOneSample : Prop :=
  ∀ s : State, s.power ≠ .failed →
    (∀ b rest, s.power = .ready → s.clockRunning = true →
      ((∃ known endless, s.lineInRest = ⟨b :: known, endless⟩ ∧ rest = ⟨known, endless⟩) ∨
        (∃ stream k, s.lineInRest = ⟨[], some ⟨stream, k⟩⟩ ∧ b = Config.freeSample stream k ∧
          rest = ⟨[], some ⟨stream, k + 1⟩⟩)) →
      (s.csEn = true → s.csRxon = true → s.rxfifo.length < s.cfg.hwFifoDepth →
        s.act .rxTick =
          .next { s with lineInRest := rest, rxfifo := s.rxfifo ++ [BitVec.ofNat 32 b.toNat] }) ∧
      ((s.csEn = false ∨ s.csRxon = false ∨ s.cfg.hwFifoDepth ≤ s.rxfifo.length) →
        s.act .rxTick = .next { s with lineInRest := rest })) ∧
    ((s.power = .off ∨ s.clockRunning = false ∨ s.lineInRest = ⟨[], none⟩) → s.act .rxTick = .next s)

/-- The clear unit (R89): enabled exactly while the clock runs and a clear is pending.
The unit is the spec's decision (D21; log 20); that a move not enabled passes is the model's (log 4). -/
def Obligations.ClearUnitEmptiesFifos : Prop :=
  ∀ s : State, s.power ≠ .failed →
    (s.power = .ready → s.clockRunning = true → s.txclrPending = true →
      s.act .clearTx = .next { s with txfifo := [], txclrPending := false }) ∧
    ((s.power = .off ∨ s.clockRunning = false ∨ s.txclrPending = false) → s.act .clearTx = .next s) ∧
    (s.power = .ready → s.clockRunning = true → s.rxclrPending = true →
      s.act .clearRx = .next { s with rxfifo := [], rxclrPending := false }) ∧
    ((s.power = .off ∨ s.clockRunning = false ∨ s.rxclrPending = false) → s.act .clearRx = .next s)

/-- The overall enable (R88): while `CS.EN = 0` in a block that stays ready, no step puts a sample on the line or adds
a word to the receive FIFO.
The meaning of the bit is the spec's decision (D22; log 20). -/
def Obligations.OverallEnableStopsTheLine : Prop :=
  ∀ s t : State, s.power = .ready → t.power = .ready → s.csEn = false → step s = .next t →
    t.lineOut = s.lineOut ∧ t.rxfifo.length ≤ s.rxfifo.length

/-- What has gone out on the line stays the record's beginning, and a step adds at most one sample (R29, R92), in a
block that stays ready.
The line side is the spec's decision (D24; log 20). -/
def Obligations.LineRecordOnlyGrows : Prop :=
  ∀ s t : State, s.power = .ready → t.power = .ready → step s = .next t →
    ∃ added : List Byte, t.lineOut = s.lineOut ++ added ∧ added.length ≤ 1 ∧
      (added ≠ [] → added = (s.txfifo.take 1).map fun w => w.setWidth 8)

/-- The clock collaborator (R165) sets the input and touches nothing else.
The input is the spec's decision (D34; log 20, 29). -/
def Obligations.ClockCallsSetTheInput : Prop :=
  ∀ s : State, s.power ≠ .failed →
    s.act .clockUp = .next { s with clockRunning := true } ∧
    s.act .clockDown = .next { s with clockRunning := false }

/-! ## Transfer Engine (42_transfer_engine.md, 60_exceptions.md) -/

/-- Entry into the service routine (R110, R111, R191): enabled exactly when the block is ready, the routine is registered,
an edge is pending and the routine is not running; it clears the edge, masks, and goes to S2test, saving nothing.
A move that is not enabled leaves the state as it is (log 4). -/
def Obligations.ServiceEntry : Prop :=
  ∀ s : State, s.power ≠ .failed → s.eng.phase = .idle →
    (s.power = .ready → s.isrRegistered = true → s.svcPending = true → s.inService = false →
      s.act .engine = .next { s with svcPending := false, inService := true, eng := ⟨.s2test, 0⟩ }) ∧
    ((s.power = .off ∨ s.isrRegistered = false ∨ s.svcPending = false ∨ s.inService = true) →
      s.act .engine = .next s)

/-- The two tests (R112, R117) look at the live FIFO level only, whatever the enables are.
Levels and live conditions are the spec's decisions (D6, D8; log 20). -/
def Obligations.ServiceTestsReadLiveConditions : Prop :=
  ∀ s : State, s.power = .ready →
    (s.eng.phase = .s2test → s.act .engine = .next
      { s with eng := ⟨if s.txfifo.length < s.cfg.txReadyLevel then .s2loop else .s3test, 0⟩ }) ∧
    (s.eng.phase = .s3test → s.act .engine = .next
      { s with eng := ⟨if s.cfg.rxReadyLevel ≤ s.rxfifo.length then .s3loop else .s4, 0⟩ })

/-- One iteration of the S2 loop (R113) with its accounting (R115) and trip (R116): batch limit or full hardware FIFO
leaves the loop; a sample moves from ring to FIFO; an empty ring counts one underflow, and at the threshold disables
the direction, pushes two zero words (the second is lost where one place was free) and resets the counter.
Order, count and comparison are the spec's decisions (D9, D10, D13; log 20, 28). -/
def Obligations.TransmitLoopIteration : Prop :=
  ∀ s : State, s.power = .ready → s.eng.phase = .s2loop →
    ((s.cfg.batchLimit ≤ s.eng.i ∨ s.cfg.hwFifoDepth ≤ s.txfifo.length) →
      s.act .engine = .next { s with eng := ⟨.s3test, 0⟩ }) ∧
    (s.eng.i < s.cfg.batchLimit → s.txfifo.length < s.cfg.hwFifoDepth →
      (s.txring.head ≠ s.txring.tail → s.act .engine = .next
        { s with
          txring := { s.txring with tail := (s.txring.tail + 1) % (s.cfg.nTx + 1) }
          txfifo := s.txfifo ++ [BitVec.ofNat 32 (s.txring.slot s.txFree s.txring.tail).toNat]
          eng := ⟨.s2loop, s.eng.i + 1⟩ }) ∧
      (s.txring.head = s.txring.tail →
        (min (s.txUnderflow + 1) s.cfg.counterMax < s.cfg.threshold → s.act .engine = .next
          { s with
            txUnderflow := min (s.txUnderflow + 1) s.cfg.counterMax
            eng := ⟨.s3test, 0⟩ }) ∧
        (s.cfg.threshold ≤ min (s.txUnderflow + 1) s.cfg.counterMax → s.act .engine = .next
          { s with
            csTxon := false
            txfifo := (s.txfifo ++ [0#32, 0#32]).take s.cfg.hwFifoDepth
            txUnderflow := 0
            eng := ⟨.s3test, 0⟩ })))

/-- One iteration of the S3 loop (R118) with its accounting (R120) and trip (R121): batch limit or empty hardware FIFO
leaves the loop; the oldest word leaves the FIFO and its low byte is stored at `head`; on a full ring it is lost and
one overflow is counted, and at the threshold the direction is disabled, two further words are discarded (as far as
there are any) and the counter is reset. The counter of free words (log 11) is the only field the trip may change
beside these.
Order, count, comparison and losses are the spec's decisions (D9, D10, D12, D13; log 20, 28). -/
def Obligations.ReceiveLoopIteration : Prop :=
  ∀ s : State, s.power = .ready → s.eng.phase = .s3loop →
    ((s.cfg.batchLimit ≤ s.eng.i ∨ s.rxfifo = []) → s.act .engine = .next { s with eng := ⟨.s4, 0⟩ }) ∧
    (∀ w rest, s.eng.i < s.cfg.batchLimit → s.rxfifo = w :: rest →
      ((s.rxring.head + 1) % (s.cfg.nRx + 1) ≠ s.rxring.tail → s.act .engine = .next
        { s with
          rxfifo := rest
          rxring :=
            { s.rxring with
              slots := s.rxring.slots.write s.rxring.head (w.setWidth 8)
              head := (s.rxring.head + 1) % (s.cfg.nRx + 1) }
          eng := ⟨.s3loop, s.eng.i + 1⟩ }) ∧
      ((s.rxring.head + 1) % (s.cfg.nRx + 1) = s.rxring.tail →
        (min (s.rxOverflow + 1) s.cfg.counterMax < s.cfg.threshold → s.act .engine = .next
          { s with
            rxfifo := rest
            rxOverflow := min (s.rxOverflow + 1) s.cfg.counterMax
            eng := ⟨.s4, 0⟩ }) ∧
        (s.cfg.threshold ≤ min (s.rxOverflow + 1) s.cfg.counterMax → ∃ t, s.act .engine = .next t ∧
          t = { s with
                csRxon := false
                rxfifo := rest.drop 2
                rxOverflow := 0
                eng := ⟨.s4, 0⟩
                draws := t.draws })))

/-- S4 and S5 (R122, R123) as whole steps with their latches: S4 clears both flags and each flag whose condition and
enable still hold is up again in the same step, which is a new edge for the registered routine; S5 unmasks, and the
latches of that step set what has come up since. Nothing else changes in either.
The latching and the edge are the spec's decision (D7; log 20, 25), the latches in the step are log 33. -/
def Obligations.ServiceReturn : Prop :=
  ∀ (s : State) (rest : List Move), s.power = .ready → s.sched = .engine :: rest →
    (s.eng.phase = .s4 → ∃ u, step s = .next u ∧
      u = { s with
            sched := rest
            eng := ⟨.s5, 0⟩
            intstcTxw := decide (s.txfifo.length < s.cfg.txReadyLevel) && s.intenTxw
            intstcRxr := decide (s.cfg.rxReadyLevel ≤ s.rxfifo.length) && s.intenRxr
            svcPending := u.svcPending } ∧
      (u.svcPending = true ↔ s.svcPending = true ∨ (s.isrRegistered = true ∧ u.irqLine = true))) ∧
    (s.eng.phase = .s5 → ∃ u, step s = .next u ∧
      u = { s with
            sched := rest
            inService := false
            eng := ⟨.idle, 0⟩
            intstcTxw := s.intstcTxw || decide (s.txfifo.length < s.cfg.txReadyLevel) && s.intenTxw
            intstcRxr := s.intstcRxr || decide (s.cfg.rxReadyLevel ≤ s.rxfifo.length) && s.intenRxr
            svcPending := u.svcPending } ∧
      (u.svcPending = true ↔ s.svcPending = true ∨
        (s.isrRegistered = true ∧ s.irqLine = false ∧ u.irqLine = true)))

/-- Bounded work (R125). The routine never waits (R213): in every phase but `Idle` the engine's step is enabled and moves
its control position. And an invocation that can start, run without another agent's step, is back at `Idle` after at
most `2 * BATCH_LIMIT + 7` steps, the bound the spec derives. -/
def Obligations.InvocationNeverWaitsAndIsBounded : Prop :=
  (∀ s : State, s.power = .ready → s.eng.phase ≠ .idle →
    ∃ t, s.act .engine = .next t ∧ t.eng ≠ s.eng) ∧
  (∀ s : State, s.power = .ready → s.eng.phase = .idle → s.isrRegistered = true → s.svcPending = true →
    s.inService = false →
    ∃ k t, 0 < k ∧ k ≤ 2 * s.cfg.batchLimit + 7 ∧ s.runMoves (List.replicate k .engine) = .next t ∧
      t.eng = ⟨.idle, 0⟩ ∧ t.inService = false)

/-- The threshold scenario (§8, X4; R115, R116, R126): with the transmit ring empty, a transmit FIFO below its ready
level and a receive FIFO below its own, each invocation counts one underflow and re-triggers; after fewer than
`THRESHOLD` invocations transmit is as it was, after exactly `THRESHOLD` it is disabled, the two zero words are in the
FIFO and the counter is 0.
The comparison and the re-triggering by a new edge are the spec's decisions (D10, D7; log 20, 28). -/
def Obligations.StarvedTransmitTripsAtThreshold : Prop :=
  ∀ (s : State) (k : Nat), s.cfg.wf → s.power = .ready → s.Settled → s.eng = ⟨.idle, 0⟩ → s.inService = false →
    s.isrRegistered = true → s.svcPending = true → s.intenTxw = true → s.sched = [] →
    s.txring.head = s.txring.tail → s.txfifo.length < s.cfg.txReadyLevel →
    s.rxfifo.length < s.cfg.rxReadyLevel → s.txUnderflow = 0 → 0 < k → k ≤ s.cfg.threshold →
    ∃ t, s.runMoves (List.replicate (6 * k) .engine) = .next t ∧
      (k < s.cfg.threshold →
        t.txUnderflow = k ∧ t.csTxon = s.csTxon ∧ t.txfifo = s.txfifo ∧ t.svcPending = true) ∧
      (k = s.cfg.threshold →
        t.txUnderflow = 0 ∧ t.csTxon = false ∧
        t.txfifo = (s.txfifo ++ [0#32, 0#32]).take s.cfg.hwFifoDepth ∧
        (s.cfg.txReadyLevel ≤ t.txfifo.length → t.svcPending = false))

/-! ## Reset, teardown, invariants (10_state.md, 70_reset_and_hazards.md) -/

/-- The life cycle (R200, R201, R202). The reset event is enabled only in `Off`: with `INIT_OK` every field of the block
is as R32 stores it and the latches then set `INTSTC.TXW` alone; without it the block is `Failed` and the field
`initReport` reports `HardwareFault` (log 24). Teardown is enabled only in a ready block whose usage reference is 0, and
turns it `Off`. In all three what is no state of the block survives (log 15); the lost fields of a block in `Failed` or
`Off` hold the reset values, which nothing reads (log 14).
The reset values, `INIT_OK` and the latching are the spec's decisions (D23, D33, D7; log 20); that a move not enabled passes is the
model's (log 4). -/
def Obligations.LifeCycleEvents : Prop :=
  ∀ s : State,
    (s.power = .off → s.cfg.initOk = true → ∃ t, s.act .resetEvent = .next t ∧
      t = { State.resetStored s.cfg with
            caller := s.caller, responses := s.responses, call := s.call, sched := s.sched,
            turns := s.turns, draws := s.draws, epoch := t.epoch } ∧
      (s.cfg.wf → t.settle = { t with intstcTxw := true })) ∧
    (s.power = .off → s.cfg.initOk = false → ∃ t, s.act .resetEvent = .next t ∧
      t = { State.resetStored s.cfg with
            power := .failed, initReport := some .hardwareFault,
            caller := s.caller, responses := s.responses, call := s.call, sched := s.sched,
            turns := s.turns, draws := s.draws, epoch := t.epoch }) ∧
    (s.power = .ready → s.act .resetEvent = .next s) ∧
    (s.power = .ready → s.usageRef = 0 → ∃ t, s.act .teardown = .next t ∧
      t = { State.resetStored s.cfg with
            power := .off,
            caller := s.caller, responses := s.responses, call := s.call, sched := s.sched,
            turns := s.turns, draws := s.draws, epoch := t.epoch }) ∧
    ((s.power = .off ∨ (s.power = .ready ∧ s.usageRef ≠ 0)) → s.act .teardown = .next s)

/-- The invariant holds right after reset, in every configuration that meets R5.
The model's own fields hold the values of their log entries (log 3, 6, 7, 8, 11, 12); the canonical storage is its form
(log 13). -/
def Obligations.ResetSatisfiesInvariant : Prop :=
  ∀ c : Config, c.wf → (State.resetWith c).Inv

/-- Every step of every agent keeps the invariant (R33 and what it rests on: ring bounds and canonical storage, no slot
read before it is written, FIFO bounds, counters below the threshold, session and service state in step, a FIFO clear
only while its direction is disabled, every latch set whose condition and enable hold).
Where a ring clear meets a running engine it rests on the spec's default for U3, one atomic `clear` (D25; log 17), and
says nothing of an implementation whose clear can tear. The latching is the spec's decision (D7; log 20, 25, 33). The
canonical storage is the model's form (log 13), the holder and the held `CLOSE` are its fields (log 7, 6). -/
def Obligations.StepKeepsInvariant : Prop :=
  ∀ s t : State, s.Inv → step s = .next t → t.Inv

/-- No clear is requested or performed while its direction is enabled (R90, U4). From a state of the invariant: a step
that raises `txclr_pending` (the request) or lowers it (in a ready block, `ClearTx` performing the clear) has transmit
disabled before it and after it, likewise for receive; and no step is refused as the clear of an enabled direction, the name the model gives the case
in which the spec has no meaning (log 18). That the case cannot occur the spec derives. -/
def Obligations.EnabledDirectionIsNeverCleared : Prop :=
  ∀ s : State, s.Inv →
    step s ≠ .refused .clearOfEnabledDirection ∧
    ∀ t, step s = .next t →
      (t.txclrPending ≠ s.txclrPending → s.csTxon = false ∧ t.csTxon = false) ∧
      (t.rxclrPending ≠ s.rxclrPending → s.csRxon = false ∧ t.csRxon = false)

/-- The session state machine (R134): under the invariant, in a block that stays ready, the session opens only in a
step that issues `OPEN` and closes only in one that issues `CLOSE` or completes a held one.
The held request is the model's field `held` (log 6). -/
def Obligations.SessionOpensAndClosesByRequest : Prop :=
  ∀ s t : State, s.Inv → s.power = .ready → t.power = .ready → step s = .next t →
    (s.inUse = false → t.inUse = true → s.Issues .openSession) ∧
    (s.inUse = true → t.inUse = false →
      s.Issues .closeSession ∨ (s.nextMove = .host ∧ s.held ≠ none ∧ s.inService = false))

/-- Who writes the error counters (R124), in a block that stays ready: a step that changes one either issues `OPEN` or
`CLOSE` or completes a held `CLOSE` (to 0), or is the engine's in the loop of that direction (one more, saturating, or
0 at a trip). -/
def Obligations.CounterWriters : Prop :=
  ∀ s t : State, s.power = .ready → t.power = .ready → step s = .next t →
    (t.txUnderflow ≠ s.txUnderflow →
      (t.txUnderflow = 0 ∧ (s.Issues .openSession ∨ s.Issues .closeSession ∨
        (s.nextMove = .host ∧ s.held ≠ none))) ∨
      (s.nextMove = .engine ∧ s.eng.phase = .s2loop ∧
        (t.txUnderflow = min (s.txUnderflow + 1) s.cfg.counterMax ∨
          (t.txUnderflow = 0 ∧ t.csTxon = false)))) ∧
    (t.rxOverflow ≠ s.rxOverflow →
      (t.rxOverflow = 0 ∧ (s.Issues .openSession ∨ s.Issues .closeSession ∨
        (s.nextMove = .host ∧ s.held ≠ none))) ∨
      (s.nextMove = .engine ∧ s.eng.phase = .s3loop ∧
        (t.rxOverflow = min (s.rxOverflow + 1) s.cfg.counterMax ∨
          (t.rxOverflow = 0 ∧ t.csRxon = false))))

/-- Failure atomicity (R198): an operation of the block whose response carries a status other than `Ok` has changed
nothing else; and no step of an operation in flight responds with anything but `Ok`. -/
def Obligations.FailedResponseChangesNothing : Prop :=
  (∀ (i : Instr) (s t : State) (p : ProcId) (r : Response), exec i s = .next t →
    t.responses = s.responses ++ [(p, r)] → r.status ≠ .ok →
    t = s.answered p r.status 0#32 [] ∧ r.value = 0#32 ∧ r.payload = []) ∧
  (∀ (s t : State) (p : ProcId) (r : Response), s.hostStep = .next t →
    t.responses = s.responses ++ [(p, r)] → r.status = .ok)

/-- Single producer, single consumer (R49, R108): under the invariant, a step of any agent but the host, in a block
that stays ready, never shrinks the transmit ring's free space nor the receive ring's count, so that a count once
queried is a lower bound (R48 c, d). -/
def Obligations.QueriedCountsAreLowerBounds : Prop :=
  ∀ s t : State, s.Inv → s.power = .ready → t.power = .ready → step s = .next t →
    s.requestOf = none → s.nextMove ≠ .host →
    s.txring.remainingSpace s.cfg.nTx ≤ t.txring.remainingSpace t.cfg.nTx ∧
    s.rxring.itemCount s.cfg.nRx ≤ t.rxring.itemCount t.cfg.nRx

/-- Progress under fairness (R216, in a block that stays ready): a requested FIFO clear is performed if the clock stays
up, a started service routine reaches S5, a pending invocation starts unless the session is closed first, and an
operation in flight that is not held at F3 moves on. Fairness is the spec's assumption, a premise here (log 5). -/
def Obligations.FairRunsMakeProgress : Prop :=
  ∀ (run : Nat → State) (moves : Nat → Move) (n : Nat), IsRun run moves → WeaklyFair run moves → (run 0).Inv →
    (∀ k, (run k).power = .ready) →
    ((∀ k, n ≤ k → (run k).clockRunning = true) →
      ((run n).txclrPending = true → ∃ k, n ≤ k ∧ (run k).txclrPending = false) ∧
      ((run n).rxclrPending = true → ∃ k, n ≤ k ∧ (run k).rxclrPending = false)) ∧
    ((run n).eng.phase ≠ .idle → ∃ k, n ≤ k ∧ (run k).eng = ⟨.idle, 0⟩ ∧ (run k).inService = false) ∧
    ((run n).svcPending = true → (run n).inService = false →
      ∃ k, n ≤ k ∧ ((run k).inService = true ∨ (run k).inUse = false)) ∧
    (∀ op, (run n).hostop = some op → (∀ saved, op.progress ≠ .clrTx .f3 saved ∧ op.progress ≠ .clrRx .f3 saved) →
      ∃ k, n ≤ k ∧ (run k).hostop ≠ some op)

/-! ## Call Session Manager (45_call_session.md) -/

/-- `stopSession` (R162) run alone by the holder while the service routine is not running: the three requests in order,
each after the response to the one before; both directions end disabled and the session closed as `CLOSE` leaves it, the
rings and FIFOs keep their contents, and the result is success.
The host-side moves, and the result left in `call`, are the model's (log 23, 37). -/
def Obligations.StopSessionDisablesAndCloses : Prop :=
  ∀ s : State, s.Issuable → s.Settled → s.sched = [] → s.call = none → s.inService = false →
    s.runMoves [.beginCall s.caller .stopSession, .call, .call, .call, .call, .call, .call] = .next
      { s with
        csRxon := false
        csTxon := false
        isrRegistered := false
        svcPending := false
        txUnderflow := 0
        rxOverflow := 0
        usageRef := s.usageRef - 1
        inUse := false
        holder := none
        responses := s.responses ++
          [(s.caller, ⟨.ok, 0#32, []⟩), (s.caller, ⟨.ok, 0#32, []⟩), (s.caller, ⟨.ok, 0#32, []⟩)]
        call := some ⟨s.caller, .done .success, none⟩ }

/-- `writeFrame` (R163) run alone by the holder: with strictly more free space than a frame it succeeds and appends
every sample; otherwise it fails with `WouldBlock`, issues no `WRITE`, and both rings are unchanged.
The host-side moves, and the result left in `call`, are the model's (log 23, 37); frames of another length than `FRAME_SIZE` are log 36's. -/
def Obligations.WriteFrameNeedsMoreThanAFrame : Prop :=
  ∀ (s : State) (samples : List Byte), s.Issuable → s.Settled → s.cfg.wf → s.sched = [] → s.call = none →
    s.txring.Ok s.cfg.nTx → samples.length = s.cfg.frameSize → s.cfg.frameSize < 4294967296 →
    (s.cfg.frameSize < s.txring.remainingSpace s.cfg.nTx →
      ∃ t, s.runMoves (.beginCall s.caller (.writeFrame samples) ::
          [.call, .call, .call] ++ List.replicate (s.cfg.frameSize + 1) .host ++ [.call]) = .next t ∧
        t.call = some ⟨s.caller, .done .success, none⟩ ∧
        t.txContents = s.txContents ++ samples ∧ t.rxring = s.rxring) ∧
    (s.txring.remainingSpace s.cfg.nTx ≤ s.cfg.frameSize →
      ∃ t, s.runMoves [.beginCall s.caller (.writeFrame samples), .call, .call] = .next t ∧
        t.call = some ⟨s.caller, .done (.failed .wouldBlock), none⟩ ∧
        t.txring = s.txring ∧ t.rxring = s.rxring)

/-- `readFrame` (R164) run alone by the holder: with strictly more samples than a frame it returns exactly the oldest
`FRAME_SIZE` of them; otherwise the result is `None`, no `READ` is issued and both rings are unchanged; and a response
to its `READ` with fewer bytes than a frame is `InvalidData`, which this block never gives.
The host-side moves, and the result left in `call`, are the model's (log 23, 37); the number of moves counts RD0 and the
first RD1 as one step (log 16). -/
def Obligations.ReadFrameNeedsMoreThanAFrame : Prop :=
  ∀ s : State, s.Issuable → s.Settled → s.cfg.wf → s.sched = [] → s.call = none → s.rxring.Ok s.cfg.nRx →
    (s.cfg.frameSize < s.rxring.itemCount s.cfg.nRx →
      ∃ t, s.runMoves (.beginCall s.caller .readFrame ::
          [.call, .call, .call] ++ List.replicate s.cfg.frameSize .host ++ [.call]) = .next t ∧
        t.call = some ⟨s.caller, .done (.frame (s.rxContents.take s.cfg.frameSize)), none⟩ ∧
        t.rxring.itemCount s.cfg.nRx = s.rxring.itemCount s.cfg.nRx - s.cfg.frameSize ∧
        t.txring = s.txring) ∧
    (s.rxring.itemCount s.cfg.nRx ≤ s.cfg.frameSize →
      ∃ t, s.runMoves [.beginCall s.caller .readFrame, .call, .call] = .next t ∧
        t.call = some ⟨s.caller, .done .noFrame, none⟩ ∧
        t.txring = s.txring ∧ t.rxring = s.rxring) ∧
    ∀ r : Response, r.value.toNat < s.cfg.frameSize →
      CallPos.afterResponse s.cfg .frameRead r = .done (.failed .invalidData)
end

