-- ==== Sys2Proof/Laws/Ring.lean ====
section
/-! SUPPORT. Ring storage and ring primitives: read over write, the canonical form is kept, the counts in closed form,
and what `tryRead`, `tryWrite` and `clear` do to the contents (R18, R100 to R106). -/

namespace Sys2Proof.Laws

open Sys2Proof.Machine

/-! ### Storage -/

@[simp] theorem read_nil (a : Nat) : Memory.read [] a = none := rfl

theorem read_write_same (m : Memory) (a : Nat) (v : Byte) : (m.write a v).read a = some v := by
  induction m with
  | nil => simp [Memory.write, Memory.read]
  | cons c rest ih =>
    unfold Memory.write
    split
    · simp [Memory.read]
    · split
      · simp [Memory.read]
      · next h => simpa [Memory.read, h] using ih

theorem read_write_other (m : Memory) {a b : Nat} (v : Byte) (h : b ≠ a) : (m.write a v).read b = m.read b := by
  induction m with
  | nil => simp [Memory.write, Memory.read, Ne.symm h]
  | cons c rest ih =>
    unfold Memory.write
    split
    · simp [Memory.read, Ne.symm h]
    · split
      · next hc => simp [Memory.read, Ne.symm h, hc]
      · simp only [Memory.read, ih]

theorem read_write (m : Memory) (a b : Nat) (v : Byte) :
    (m.write a v).read b = if b = a then some v else m.read b := by
  split
  · next h => rw [h, read_write_same]
  · next h => exact read_write_other m v h

theorem above_write {m : Memory} {a b : Nat} {v : Byte} (hm : m.above b = true) (hab : b < a) :
    (m.write a v).above b = true := by
  induction m with
  | nil => simpa [Memory.write, Memory.above] using hab
  | cons c rest ih =>
    simp only [Memory.above, List.all_cons, Bool.and_eq_true, decide_eq_true_eq] at hm ih
    unfold Memory.write
    split
    · simp [Memory.above, hab, hm.1, hm.2]
    · split
      · simp [Memory.above, hab, hm.2]
      · simpa [Memory.above, hm.1] using ih hm.2

/-- Every storage operation keeps the canonical form. -/
theorem write_wf {m : Memory} {a : Nat} {v : Byte} (hm : m.wf = true) : (m.write a v).wf = true := by
  induction m with
  | nil => simp [Memory.write, Memory.wf, Memory.above]
  | cons c rest ih =>
    simp only [Memory.wf, Bool.and_eq_true] at hm
    unfold Memory.write
    split
    · next hac =>
      have hrest : Memory.above a rest = true := by
        have := hm.1
        simp only [Memory.above, List.all_eq_true, decide_eq_true_eq] at this ⊢
        exact fun x hx => Nat.lt_trans hac (this x hx)
      have hhead : Memory.above a (c :: rest) = true := by
        simp only [Memory.above, List.all_cons, Bool.and_eq_true, decide_eq_true_eq]
        exact ⟨hac, hrest⟩
      simp [Memory.wf, hhead, hm.1, hm.2]
    · split
      · next hc => simp [Memory.wf, ← hc, hm.1, hm.2]
      · next h1 h2 =>
        have : c.1 < a := by omega
        simp [Memory.wf, above_write hm.1 this, ih hm.2]

theorem write_within {m : Memory} {n a : Nat} {v : Byte} (hm : m.within n = true) (ha : a ≤ n) :
    (m.write a v).within n = true := by
  induction m with
  | nil => simpa [Memory.write, Memory.within] using ha
  | cons c rest ih =>
    simp only [Memory.within, List.all_cons, Bool.and_eq_true, decide_eq_true_eq] at hm ih
    unfold Memory.write
    split
    · simp [Memory.within, ha, hm.1, hm.2]
    · split
      · simp [Memory.within, ha, hm.2]
      · simpa [Memory.within, hm.1] using ih hm.2

/-! ### Indices and counts -/

theorem nextIndex_eq {n a : Nat} (h : a ≤ n) : nextIndex n a = if a = n then 0 else a + 1 := by
  unfold nextIndex
  split
  · next e => simp [e]
  · exact Nat.mod_eq_of_lt (by omega)

theorem nextIndex_le (n a : Nat) : nextIndex n a ≤ n := by
  have := Nat.mod_lt (a + 1) (show n + 1 > 0 by omega)
  unfold nextIndex
  omega

/-- An index reduced modulo `n + 1` that has wrapped at most once. -/
theorem mod_once {n a : Nat} (h : a ≤ 2 * n + 1) : a % (n + 1) = if a ≤ n then a else a - (n + 1) := by
  split
  · next h' => exact Nat.mod_eq_of_lt (by omega)
  · next h' =>
    rw [Nat.mod_eq_sub_mod (by omega)]
    exact Nat.mod_eq_of_lt (by omega)

/-- `itemCount` in closed form, for indices in range. -/
theorem itemCount_eq {n : Nat} {r : Ring} (hh : r.head ≤ n) (ht : r.tail ≤ n) :
    r.itemCount n = if r.tail ≤ r.head then r.head - r.tail else r.head + (n + 1) - r.tail := by
  unfold Ring.itemCount
  split
  · next h =>
    rw [Int.emod_eq_of_lt (by omega) (by omega)]
    omega
  · next h =>
    have : ((r.head : Int) - r.tail) % ((n : Int) + 1) = (r.head : Int) - r.tail + (n + 1) := by
      rw [← Int.add_emod_right, Int.emod_eq_of_lt (by omega) (by omega)]
    rw [this]
    omega

theorem itemCount_le (n : Nat) (r : Ring) : r.itemCount n ≤ n := by
  unfold Ring.itemCount
  have := Int.emod_lt_of_pos ((r.head : Int) - r.tail) (b := (n : Int) + 1) (by omega)
  omega

theorem count_add_space (n : Nat) (r : Ring) : r.itemCount n + r.remainingSpace n = n := by
  have := itemCount_le n r
  unfold Ring.remainingSpace
  omega

theorem itemCount_eq_zero {n : Nat} {r : Ring} (hh : r.head ≤ n) (ht : r.tail ≤ n) :
    r.itemCount n = 0 ↔ r.head = r.tail := by
  rw [itemCount_eq hh ht]
  split <;> omega

theorem isFull_iff {n : Nat} {r : Ring} (hh : r.head ≤ n) (ht : r.tail ≤ n) :
    (r.head + 1) % (n + 1) = r.tail ↔ r.itemCount n = n := by
  rw [itemCount_eq hh ht, mod_once (by omega)]
  split <;> split <;> omega

/-! ### The primitives -/

theorem slot_write (free : Nat → Byte) (r : Ring) (a h t : Nat) (v : Byte) :
    Ring.slot free ⟨r.slots.write a v, h, t⟩ = fun b => if b = a then v else r.slot free b := by
  funext b
  simp only [Ring.slot, read_write]
  split <;> rfl

/-- What `tryWrite` does (R102). -/
theorem tryWrite_cases (n : Nat) (r : Ring) (sample : Byte) :
    ((r.head + 1) % (n + 1) = r.tail ∧ r.tryWrite n sample = none) ∨
    ((r.head + 1) % (n + 1) ≠ r.tail ∧ r.tryWrite n sample =
      some { r with slots := r.slots.write r.head sample, head := (r.head + 1) % (n + 1) }) := by
  unfold Ring.tryWrite Ring.isFull nextIndex
  by_cases h : (r.head + 1) % (n + 1) = r.tail <;> simp [h]

/-- What `tryRead` does (R101). -/
theorem tryRead_cases (n : Nat) (free : Nat → Byte) (r : Ring) :
    (r.head = r.tail ∧ r.tryRead n free = none) ∨
    (r.head ≠ r.tail ∧ r.tryRead n free =
      some (r.slot free r.tail, { r with tail := (r.tail + 1) % (n + 1) })) := by
  unfold Ring.tryRead Ring.isEmpty nextIndex
  by_cases h : r.head = r.tail <;> simp [h]

theorem write_ok {n : Nat} {r : Ring} (sample : Byte) (h : r.Ok n) :
    Ring.Ok n { r with slots := r.slots.write r.head sample, head := (r.head + 1) % (n + 1) } :=
  ⟨nextIndex_le n r.head, h.2.1, write_wf h.2.2.1, write_within h.2.2.2 h.1⟩

theorem read_ok {n : Nat} {r : Ring} (h : r.Ok n) : Ring.Ok n { r with tail := (r.tail + 1) % (n + 1) } :=
  ⟨h.1, nextIndex_le n r.tail, h.2.2⟩

theorem clear_ok {n : Nat} {r : Ring} (h : r.Ok n) : r.clear.Ok n := ⟨Nat.zero_le n, Nat.zero_le n, h.2.2⟩

theorem write_itemCount {n : Nat} {r : Ring} (slots : Memory) (hh : r.head ≤ n) (ht : r.tail ≤ n)
    (hf : (r.head + 1) % (n + 1) ≠ r.tail) :
    Ring.itemCount n ⟨slots, (r.head + 1) % (n + 1), r.tail⟩ = r.itemCount n + 1 := by
  rw [itemCount_eq (r := ⟨slots, _, r.tail⟩) (nextIndex_le n r.head) ht, itemCount_eq hh ht]
  simp only
  rw [mod_once (by omega)] at hf ⊢
  repeat' split
  all_goals split at hf <;> omega

theorem read_itemCount {n : Nat} {r : Ring} (hh : r.head ≤ n) (ht : r.tail ≤ n) (he : r.head ≠ r.tail) :
    r.itemCount n = Ring.itemCount n ⟨r.slots, r.head, (r.tail + 1) % (n + 1)⟩ + 1 := by
  rw [itemCount_eq (r := ⟨r.slots, r.head, (r.tail + 1) % (n + 1)⟩) hh (nextIndex_le n r.tail), itemCount_eq hh ht]
  simp only
  rw [mod_once (by omega)]
  repeat' split
  all_goals omega

/-- The slot of the `k`-th stored sample. -/
theorem live_index {n : Nat} {r : Ring} (ht : r.tail ≤ n) {k : Nat} (hk : k < r.itemCount n) :
    (r.tail + k) % (n + 1) = if r.tail + k ≤ n then r.tail + k else r.tail + k - (n + 1) := by
  have := itemCount_le n r
  exact mod_once (by omega)

/-- No stored sample stands in the slot the next write goes to. -/
theorem live_ne_head {n : Nat} {r : Ring} (hh : r.head ≤ n) (ht : r.tail ≤ n) {k : Nat}
    (hk : k < r.itemCount n) : (r.tail + k) % (n + 1) ≠ r.head := by
  rw [live_index ht hk]
  rw [itemCount_eq hh ht] at hk
  split at hk <;> split <;> omega

theorem head_index {n : Nat} {r : Ring} (hh : r.head ≤ n) (ht : r.tail ≤ n) :
    (r.tail + r.itemCount n) % (n + 1) = r.head := by
  have := itemCount_le n r
  rw [mod_once (by omega), itemCount_eq hh ht]
  split <;> split <;> omega

theorem read_live_index {n t k : Nat} : (((t + 1) % (n + 1)) + k) % (n + 1) = (t + (k + 1)) % (n + 1) := by
  rw [Nat.mod_add_mod, Nat.add_assoc, Nat.add_comm 1 k]

@[simp] theorem contents_length (n : Nat) (free : Nat → Byte) (r : Ring) :
    (r.contents n free).length = r.itemCount n := by simp [Ring.contents]

/-- A write appends its sample to the contents (R102). -/
theorem write_contents {n : Nat} {r : Ring} (free : Nat → Byte) (sample : Byte) (hh : r.head ≤ n)
    (ht : r.tail ≤ n) (hf : (r.head + 1) % (n + 1) ≠ r.tail) :
    Ring.contents n free { r with slots := r.slots.write r.head sample, head := (r.head + 1) % (n + 1) } =
      r.contents n free ++ [sample] := by
  unfold Ring.contents
  rw [write_itemCount _ hh ht hf, List.range_succ, List.map_append]
  congr 1
  · apply List.map_congr_left
    intro k hk
    have := live_ne_head hh ht (List.mem_range.mp hk)
    simp [slot_write, this]
  · simp [slot_write, head_index hh ht]

/-- A read takes the oldest sample off the contents (R101). -/
theorem read_contents {n : Nat} {r : Ring} (free : Nat → Byte) (hh : r.head ≤ n) (ht : r.tail ≤ n)
    (he : r.head ≠ r.tail) :
    r.contents n free =
      r.slot free r.tail :: Ring.contents n free { r with tail := (r.tail + 1) % (n + 1) } := by
  unfold Ring.contents
  rw [read_itemCount hh ht he, List.range_succ_eq_map, List.map_cons, List.map_map]
  congr 1
  · rw [Nat.add_zero, Nat.mod_eq_of_lt (by omega)]
  · apply List.map_congr_left
    intro k _
    simp only [Function.comp, Nat.succ_eq_add_one]
    rw [read_live_index]
    rfl

theorem write_written {n : Nat} {r : Ring} (sample : Byte) (hh : r.head ≤ n) (ht : r.tail ≤ n)
    (hf : (r.head + 1) % (n + 1) ≠ r.tail) (hw : r.Written n) :
    Ring.Written n { r with slots := r.slots.write r.head sample, head := (r.head + 1) % (n + 1) } := by
  intro k hk
  rw [write_itemCount _ hh ht hf] at hk
  simp only [read_write]
  split
  · rfl
  · next hne =>
    refine hw k ?_
    rcases Nat.lt_or_ge k (r.itemCount n) with h | h
    · exact h
    · exact absurd (by rw [show k = r.itemCount n by omega]; exact head_index hh ht) hne

theorem read_written {n : Nat} {r : Ring} (hh : r.head ≤ n) (ht : r.tail ≤ n) (he : r.head ≠ r.tail)
    (hw : r.Written n) : Ring.Written n { r with tail := (r.tail + 1) % (n + 1) } := by
  intro k hk
  simp only [read_live_index]
  refine hw (k + 1) ?_
  have := read_itemCount hh ht he
  omega

theorem clear_itemCount (n : Nat) (r : Ring) : r.clear.itemCount n = 0 := by
  simp [Ring.clear, Ring.itemCount]

theorem clear_written (n : Nat) (r : Ring) : r.clear.Written n := by
  intro k hk
  simp [clear_itemCount] at hk

end Sys2Proof.Laws
end

