-- ==== Sys2Proof/Laws/State.lean ====
section
/-! SUPPORT. One lemma per field of State for each named update of it, true by definition, so that no proof unfolds a
record update. -/

namespace Sys2Proof.Laws

open Sys2Proof.Machine

/-! ### `State.settle` -/

@[simp] theorem settle_cfg (s : State) : s.settle.cfg = s.cfg := rfl
@[simp] theorem settle_power (s : State) : s.settle.power = s.power := rfl
@[simp] theorem settle_csEn (s : State) : s.settle.csEn = s.csEn := rfl
@[simp] theorem settle_csRxon (s : State) : s.settle.csRxon = s.csRxon := rfl
@[simp] theorem settle_csTxon (s : State) : s.settle.csTxon = s.csTxon := rfl
@[simp] theorem settle_txclrPending (s : State) : s.settle.txclrPending = s.txclrPending := rfl
@[simp] theorem settle_rxclrPending (s : State) : s.settle.rxclrPending = s.rxclrPending := rfl
@[simp] theorem settle_mode (s : State) : s.settle.mode = s.mode := rfl
@[simp] theorem settle_rxc (s : State) : s.settle.rxc = s.rxc := rfl
@[simp] theorem settle_txc (s : State) : s.settle.txc = s.txc := rfl
@[simp] theorem settle_dreq (s : State) : s.settle.dreq = s.dreq := rfl
@[simp] theorem settle_gray (s : State) : s.settle.gray = s.gray := rfl
@[simp] theorem settle_intenTxw (s : State) : s.settle.intenTxw = s.intenTxw := rfl
@[simp] theorem settle_intenRxr (s : State) : s.settle.intenRxr = s.intenRxr := rfl
@[simp] theorem settle_intstcTxw (s : State) : s.settle.intstcTxw = s.latchedTxw := rfl
@[simp] theorem settle_intstcRxr (s : State) : s.settle.intstcRxr = s.latchedRxr := rfl
@[simp] theorem settle_txfifo (s : State) : s.settle.txfifo = s.txfifo := rfl
@[simp] theorem settle_rxfifo (s : State) : s.settle.rxfifo = s.rxfifo := rfl
@[simp] theorem settle_txring (s : State) : s.settle.txring = s.txring := rfl
@[simp] theorem settle_rxring (s : State) : s.settle.rxring = s.rxring := rfl
@[simp] theorem settle_txUnderflow (s : State) : s.settle.txUnderflow = s.txUnderflow := rfl
@[simp] theorem settle_rxOverflow (s : State) : s.settle.rxOverflow = s.rxOverflow := rfl
@[simp] theorem settle_inUse (s : State) : s.settle.inUse = s.inUse := rfl
@[simp] theorem settle_isrRegistered (s : State) : s.settle.isrRegistered = s.isrRegistered := rfl
@[simp] theorem settle_usageRef (s : State) : s.settle.usageRef = s.usageRef := rfl
@[simp] theorem settle_holder (s : State) : s.settle.holder = s.holder := rfl
@[simp] theorem settle_svcPending (s : State) : s.settle.svcPending = (s.svcPending || s.risingEdge) := rfl
@[simp] theorem settle_inService (s : State) : s.settle.inService = s.inService := rfl
@[simp] theorem settle_eng (s : State) : s.settle.eng = s.eng := rfl
@[simp] theorem settle_hostop (s : State) : s.settle.hostop = s.hostop := rfl
@[simp] theorem settle_clockRunning (s : State) : s.settle.clockRunning = s.clockRunning := rfl
@[simp] theorem settle_lineInRest (s : State) : s.settle.lineInRest = s.lineInRest := rfl
@[simp] theorem settle_lineOut (s : State) : s.settle.lineOut = s.lineOut := rfl
@[simp] theorem settle_held (s : State) : s.settle.held = s.held := rfl
@[simp] theorem settle_caller (s : State) : s.settle.caller = s.caller := rfl
@[simp] theorem settle_responses (s : State) : s.settle.responses = s.responses := rfl
@[simp] theorem settle_initReport (s : State) : s.settle.initReport = s.initReport := rfl
@[simp] theorem settle_call (s : State) : s.settle.call = s.call := rfl
@[simp] theorem settle_sched (s : State) : s.settle.sched = s.sched := rfl
@[simp] theorem settle_turns (s : State) : s.settle.turns = s.turns := rfl
@[simp] theorem settle_draws (s : State) : s.settle.draws = s.draws := rfl
@[simp] theorem settle_epoch (s : State) : s.settle.epoch = s.epoch := rfl

/-! ### `State.respond` -/

@[simp] theorem respond_cfg (s : State) (p : ProcId) (r : Response) : (s.respond p r).cfg = s.cfg := rfl
@[simp] theorem respond_power (s : State) (p : ProcId) (r : Response) : (s.respond p r).power = s.power := rfl
@[simp] theorem respond_csEn (s : State) (p : ProcId) (r : Response) : (s.respond p r).csEn = s.csEn := rfl
@[simp] theorem respond_csRxon (s : State) (p : ProcId) (r : Response) : (s.respond p r).csRxon = s.csRxon := rfl
@[simp] theorem respond_csTxon (s : State) (p : ProcId) (r : Response) : (s.respond p r).csTxon = s.csTxon := rfl
@[simp] theorem respond_txclrPending (s : State) (p : ProcId) (r : Response) : (s.respond p r).txclrPending = s.txclrPending := rfl
@[simp] theorem respond_rxclrPending (s : State) (p : ProcId) (r : Response) : (s.respond p r).rxclrPending = s.rxclrPending := rfl
@[simp] theorem respond_mode (s : State) (p : ProcId) (r : Response) : (s.respond p r).mode = s.mode := rfl
@[simp] theorem respond_rxc (s : State) (p : ProcId) (r : Response) : (s.respond p r).rxc = s.rxc := rfl
@[simp] theorem respond_txc (s : State) (p : ProcId) (r : Response) : (s.respond p r).txc = s.txc := rfl
@[simp] theorem respond_dreq (s : State) (p : ProcId) (r : Response) : (s.respond p r).dreq = s.dreq := rfl
@[simp] theorem respond_gray (s : State) (p : ProcId) (r : Response) : (s.respond p r).gray = s.gray := rfl
@[simp] theorem respond_intenTxw (s : State) (p : ProcId) (r : Response) : (s.respond p r).intenTxw = s.intenTxw := rfl
@[simp] theorem respond_intenRxr (s : State) (p : ProcId) (r : Response) : (s.respond p r).intenRxr = s.intenRxr := rfl
@[simp] theorem respond_intstcTxw (s : State) (p : ProcId) (r : Response) : (s.respond p r).intstcTxw = s.intstcTxw := rfl
@[simp] theorem respond_intstcRxr (s : State) (p : ProcId) (r : Response) : (s.respond p r).intstcRxr = s.intstcRxr := rfl
@[simp] theorem respond_txfifo (s : State) (p : ProcId) (r : Response) : (s.respond p r).txfifo = s.txfifo := rfl
@[simp] theorem respond_rxfifo (s : State) (p : ProcId) (r : Response) : (s.respond p r).rxfifo = s.rxfifo := rfl
@[simp] theorem respond_txring (s : State) (p : ProcId) (r : Response) : (s.respond p r).txring = s.txring := rfl
@[simp] theorem respond_rxring (s : State) (p : ProcId) (r : Response) : (s.respond p r).rxring = s.rxring := rfl
@[simp] theorem respond_txUnderflow (s : State) (p : ProcId) (r : Response) : (s.respond p r).txUnderflow = s.txUnderflow := rfl
@[simp] theorem respond_rxOverflow (s : State) (p : ProcId) (r : Response) : (s.respond p r).rxOverflow = s.rxOverflow := rfl
@[simp] theorem respond_inUse (s : State) (p : ProcId) (r : Response) : (s.respond p r).inUse = s.inUse := rfl
@[simp] theorem respond_isrRegistered (s : State) (p : ProcId) (r : Response) : (s.respond p r).isrRegistered = s.isrRegistered := rfl
@[simp] theorem respond_usageRef (s : State) (p : ProcId) (r : Response) : (s.respond p r).usageRef = s.usageRef := rfl
@[simp] theorem respond_holder (s : State) (p : ProcId) (r : Response) : (s.respond p r).holder = s.holder := rfl
@[simp] theorem respond_svcPending (s : State) (p : ProcId) (r : Response) : (s.respond p r).svcPending = s.svcPending := rfl
@[simp] theorem respond_inService (s : State) (p : ProcId) (r : Response) : (s.respond p r).inService = s.inService := rfl
@[simp] theorem respond_eng (s : State) (p : ProcId) (r : Response) : (s.respond p r).eng = s.eng := rfl
@[simp] theorem respond_hostop (s : State) (p : ProcId) (r : Response) : (s.respond p r).hostop = s.hostop := rfl
@[simp] theorem respond_clockRunning (s : State) (p : ProcId) (r : Response) : (s.respond p r).clockRunning = s.clockRunning := rfl
@[simp] theorem respond_lineInRest (s : State) (p : ProcId) (r : Response) : (s.respond p r).lineInRest = s.lineInRest := rfl
@[simp] theorem respond_lineOut (s : State) (p : ProcId) (r : Response) : (s.respond p r).lineOut = s.lineOut := rfl
@[simp] theorem respond_held (s : State) (p : ProcId) (r : Response) : (s.respond p r).held = s.held := rfl
@[simp] theorem respond_caller (s : State) (p : ProcId) (r : Response) : (s.respond p r).caller = s.caller := rfl
@[simp] theorem respond_responses (s : State) (p : ProcId) (r : Response) : (s.respond p r).responses = s.responses ++ [(p, r)] := rfl
@[simp] theorem respond_initReport (s : State) (p : ProcId) (r : Response) : (s.respond p r).initReport = s.initReport := rfl
@[simp] theorem respond_call (s : State) (p : ProcId) (r : Response) : (s.respond p r).call = s.call := rfl
@[simp] theorem respond_sched (s : State) (p : ProcId) (r : Response) : (s.respond p r).sched = s.sched := rfl
@[simp] theorem respond_turns (s : State) (p : ProcId) (r : Response) : (s.respond p r).turns = s.turns := rfl
@[simp] theorem respond_draws (s : State) (p : ProcId) (r : Response) : (s.respond p r).draws = s.draws := rfl
@[simp] theorem respond_epoch (s : State) (p : ProcId) (r : Response) : (s.respond p r).epoch = s.epoch := rfl

/-! ### `State.setOp` -/

@[simp] theorem setOp_cfg (s : State) (p : ProcId) (g : Progress) : (s.setOp p g).cfg = s.cfg := rfl
@[simp] theorem setOp_power (s : State) (p : ProcId) (g : Progress) : (s.setOp p g).power = s.power := rfl
@[simp] theorem setOp_csEn (s : State) (p : ProcId) (g : Progress) : (s.setOp p g).csEn = s.csEn := rfl
@[simp] theorem setOp_csRxon (s : State) (p : ProcId) (g : Progress) : (s.setOp p g).csRxon = s.csRxon := rfl
@[simp] theorem setOp_csTxon (s : State) (p : ProcId) (g : Progress) : (s.setOp p g).csTxon = s.csTxon := rfl
@[simp] theorem setOp_txclrPending (s : State) (p : ProcId) (g : Progress) : (s.setOp p g).txclrPending = s.txclrPending := rfl
@[simp] theorem setOp_rxclrPending (s : State) (p : ProcId) (g : Progress) : (s.setOp p g).rxclrPending = s.rxclrPending := rfl
@[simp] theorem setOp_mode (s : State) (p : ProcId) (g : Progress) : (s.setOp p g).mode = s.mode := rfl
@[simp] theorem setOp_rxc (s : State) (p : ProcId) (g : Progress) : (s.setOp p g).rxc = s.rxc := rfl
@[simp] theorem setOp_txc (s : State) (p : ProcId) (g : Progress) : (s.setOp p g).txc = s.txc := rfl
@[simp] theorem setOp_dreq (s : State) (p : ProcId) (g : Progress) : (s.setOp p g).dreq = s.dreq := rfl
@[simp] theorem setOp_gray (s : State) (p : ProcId) (g : Progress) : (s.setOp p g).gray = s.gray := rfl
@[simp] theorem setOp_intenTxw (s : State) (p : ProcId) (g : Progress) : (s.setOp p g).intenTxw = s.intenTxw := rfl
@[simp] theorem setOp_intenRxr (s : State) (p : ProcId) (g : Progress) : (s.setOp p g).intenRxr = s.intenRxr := rfl
@[simp] theorem setOp_intstcTxw (s : State) (p : ProcId) (g : Progress) : (s.setOp p g).intstcTxw = s.intstcTxw := rfl
@[simp] theorem setOp_intstcRxr (s : State) (p : ProcId) (g : Progress) : (s.setOp p g).intstcRxr = s.intstcRxr := rfl
@[simp] theorem setOp_txfifo (s : State) (p : ProcId) (g : Progress) : (s.setOp p g).txfifo = s.txfifo := rfl
@[simp] theorem setOp_rxfifo (s : State) (p : ProcId) (g : Progress) : (s.setOp p g).rxfifo = s.rxfifo := rfl
@[simp] theorem setOp_txring (s : State) (p : ProcId) (g : Progress) : (s.setOp p g).txring = s.txring := rfl
@[simp] theorem setOp_rxring (s : State) (p : ProcId) (g : Progress) : (s.setOp p g).rxring = s.rxring := rfl
@[simp] theorem setOp_txUnderflow (s : State) (p : ProcId) (g : Progress) : (s.setOp p g).txUnderflow = s.txUnderflow := rfl
@[simp] theorem setOp_rxOverflow (s : State) (p : ProcId) (g : Progress) : (s.setOp p g).rxOverflow = s.rxOverflow := rfl
@[simp] theorem setOp_inUse (s : State) (p : ProcId) (g : Progress) : (s.setOp p g).inUse = s.inUse := rfl
@[simp] theorem setOp_isrRegistered (s : State) (p : ProcId) (g : Progress) : (s.setOp p g).isrRegistered = s.isrRegistered := rfl
@[simp] theorem setOp_usageRef (s : State) (p : ProcId) (g : Progress) : (s.setOp p g).usageRef = s.usageRef := rfl
@[simp] theorem setOp_holder (s : State) (p : ProcId) (g : Progress) : (s.setOp p g).holder = s.holder := rfl
@[simp] theorem setOp_svcPending (s : State) (p : ProcId) (g : Progress) : (s.setOp p g).svcPending = s.svcPending := rfl
@[simp] theorem setOp_inService (s : State) (p : ProcId) (g : Progress) : (s.setOp p g).inService = s.inService := rfl
@[simp] theorem setOp_eng (s : State) (p : ProcId) (g : Progress) : (s.setOp p g).eng = s.eng := rfl
@[simp] theorem setOp_hostop (s : State) (p : ProcId) (g : Progress) : (s.setOp p g).hostop = some ⟨p, g⟩ := rfl
@[simp] theorem setOp_clockRunning (s : State) (p : ProcId) (g : Progress) : (s.setOp p g).clockRunning = s.clockRunning := rfl
@[simp] theorem setOp_lineInRest (s : State) (p : ProcId) (g : Progress) : (s.setOp p g).lineInRest = s.lineInRest := rfl
@[simp] theorem setOp_lineOut (s : State) (p : ProcId) (g : Progress) : (s.setOp p g).lineOut = s.lineOut := rfl
@[simp] theorem setOp_held (s : State) (p : ProcId) (g : Progress) : (s.setOp p g).held = s.held := rfl
@[simp] theorem setOp_caller (s : State) (p : ProcId) (g : Progress) : (s.setOp p g).caller = s.caller := rfl
@[simp] theorem setOp_responses (s : State) (p : ProcId) (g : Progress) : (s.setOp p g).responses = s.responses := rfl
@[simp] theorem setOp_initReport (s : State) (p : ProcId) (g : Progress) : (s.setOp p g).initReport = s.initReport := rfl
@[simp] theorem setOp_call (s : State) (p : ProcId) (g : Progress) : (s.setOp p g).call = s.call := rfl
@[simp] theorem setOp_sched (s : State) (p : ProcId) (g : Progress) : (s.setOp p g).sched = s.sched := rfl
@[simp] theorem setOp_turns (s : State) (p : ProcId) (g : Progress) : (s.setOp p g).turns = s.turns := rfl
@[simp] theorem setOp_draws (s : State) (p : ProcId) (g : Progress) : (s.setOp p g).draws = s.draws := rfl
@[simp] theorem setOp_epoch (s : State) (p : ProcId) (g : Progress) : (s.setOp p g).epoch = s.epoch := rfl

/-! ### `State.endOp` -/

@[simp] theorem endOp_cfg (s : State) : s.endOp.cfg = s.cfg := rfl
@[simp] theorem endOp_power (s : State) : s.endOp.power = s.power := rfl
@[simp] theorem endOp_csEn (s : State) : s.endOp.csEn = s.csEn := rfl
@[simp] theorem endOp_csRxon (s : State) : s.endOp.csRxon = s.csRxon := rfl
@[simp] theorem endOp_csTxon (s : State) : s.endOp.csTxon = s.csTxon := rfl
@[simp] theorem endOp_txclrPending (s : State) : s.endOp.txclrPending = s.txclrPending := rfl
@[simp] theorem endOp_rxclrPending (s : State) : s.endOp.rxclrPending = s.rxclrPending := rfl
@[simp] theorem endOp_mode (s : State) : s.endOp.mode = s.mode := rfl
@[simp] theorem endOp_rxc (s : State) : s.endOp.rxc = s.rxc := rfl
@[simp] theorem endOp_txc (s : State) : s.endOp.txc = s.txc := rfl
@[simp] theorem endOp_dreq (s : State) : s.endOp.dreq = s.dreq := rfl
@[simp] theorem endOp_gray (s : State) : s.endOp.gray = s.gray := rfl
@[simp] theorem endOp_intenTxw (s : State) : s.endOp.intenTxw = s.intenTxw := rfl
@[simp] theorem endOp_intenRxr (s : State) : s.endOp.intenRxr = s.intenRxr := rfl
@[simp] theorem endOp_intstcTxw (s : State) : s.endOp.intstcTxw = s.intstcTxw := rfl
@[simp] theorem endOp_intstcRxr (s : State) : s.endOp.intstcRxr = s.intstcRxr := rfl
@[simp] theorem endOp_txfifo (s : State) : s.endOp.txfifo = s.txfifo := rfl
@[simp] theorem endOp_rxfifo (s : State) : s.endOp.rxfifo = s.rxfifo := rfl
@[simp] theorem endOp_txring (s : State) : s.endOp.txring = s.txring := rfl
@[simp] theorem endOp_rxring (s : State) : s.endOp.rxring = s.rxring := rfl
@[simp] theorem endOp_txUnderflow (s : State) : s.endOp.txUnderflow = s.txUnderflow := rfl
@[simp] theorem endOp_rxOverflow (s : State) : s.endOp.rxOverflow = s.rxOverflow := rfl
@[simp] theorem endOp_inUse (s : State) : s.endOp.inUse = s.inUse := rfl
@[simp] theorem endOp_isrRegistered (s : State) : s.endOp.isrRegistered = s.isrRegistered := rfl
@[simp] theorem endOp_usageRef (s : State) : s.endOp.usageRef = s.usageRef := rfl
@[simp] theorem endOp_holder (s : State) : s.endOp.holder = s.holder := rfl
@[simp] theorem endOp_svcPending (s : State) : s.endOp.svcPending = s.svcPending := rfl
@[simp] theorem endOp_inService (s : State) : s.endOp.inService = s.inService := rfl
@[simp] theorem endOp_eng (s : State) : s.endOp.eng = s.eng := rfl
@[simp] theorem endOp_hostop (s : State) : s.endOp.hostop = none := rfl
@[simp] theorem endOp_clockRunning (s : State) : s.endOp.clockRunning = s.clockRunning := rfl
@[simp] theorem endOp_lineInRest (s : State) : s.endOp.lineInRest = s.lineInRest := rfl
@[simp] theorem endOp_lineOut (s : State) : s.endOp.lineOut = s.lineOut := rfl
@[simp] theorem endOp_held (s : State) : s.endOp.held = s.held := rfl
@[simp] theorem endOp_caller (s : State) : s.endOp.caller = s.caller := rfl
@[simp] theorem endOp_responses (s : State) : s.endOp.responses = s.responses := rfl
@[simp] theorem endOp_initReport (s : State) : s.endOp.initReport = s.initReport := rfl
@[simp] theorem endOp_call (s : State) : s.endOp.call = s.call := rfl
@[simp] theorem endOp_sched (s : State) : s.endOp.sched = s.sched := rfl
@[simp] theorem endOp_turns (s : State) : s.endOp.turns = s.turns := rfl
@[simp] theorem endOp_draws (s : State) : s.endOp.draws = s.draws := rfl
@[simp] theorem endOp_epoch (s : State) : s.endOp.epoch = s.epoch := rfl

/-! ### `State.fifoWrite` -/

@[simp] theorem fifoWrite_cfg (s : State) (w : Word) : (s.fifoWrite w).cfg = s.cfg := rfl
@[simp] theorem fifoWrite_power (s : State) (w : Word) : (s.fifoWrite w).power = s.power := rfl
@[simp] theorem fifoWrite_csEn (s : State) (w : Word) : (s.fifoWrite w).csEn = s.csEn := rfl
@[simp] theorem fifoWrite_csRxon (s : State) (w : Word) : (s.fifoWrite w).csRxon = s.csRxon := rfl
@[simp] theorem fifoWrite_csTxon (s : State) (w : Word) : (s.fifoWrite w).csTxon = s.csTxon := rfl
@[simp] theorem fifoWrite_txclrPending (s : State) (w : Word) : (s.fifoWrite w).txclrPending = s.txclrPending := rfl
@[simp] theorem fifoWrite_rxclrPending (s : State) (w : Word) : (s.fifoWrite w).rxclrPending = s.rxclrPending := rfl
@[simp] theorem fifoWrite_mode (s : State) (w : Word) : (s.fifoWrite w).mode = s.mode := rfl
@[simp] theorem fifoWrite_rxc (s : State) (w : Word) : (s.fifoWrite w).rxc = s.rxc := rfl
@[simp] theorem fifoWrite_txc (s : State) (w : Word) : (s.fifoWrite w).txc = s.txc := rfl
@[simp] theorem fifoWrite_dreq (s : State) (w : Word) : (s.fifoWrite w).dreq = s.dreq := rfl
@[simp] theorem fifoWrite_gray (s : State) (w : Word) : (s.fifoWrite w).gray = s.gray := rfl
@[simp] theorem fifoWrite_intenTxw (s : State) (w : Word) : (s.fifoWrite w).intenTxw = s.intenTxw := rfl
@[simp] theorem fifoWrite_intenRxr (s : State) (w : Word) : (s.fifoWrite w).intenRxr = s.intenRxr := rfl
@[simp] theorem fifoWrite_intstcTxw (s : State) (w : Word) : (s.fifoWrite w).intstcTxw = s.intstcTxw := rfl
@[simp] theorem fifoWrite_intstcRxr (s : State) (w : Word) : (s.fifoWrite w).intstcRxr = s.intstcRxr := rfl
@[simp] theorem fifoWrite_txfifo (s : State) (w : Word) : (s.fifoWrite w).txfifo = if s.txd then s.txfifo ++ [w] else s.txfifo := rfl
@[simp] theorem fifoWrite_rxfifo (s : State) (w : Word) : (s.fifoWrite w).rxfifo = s.rxfifo := rfl
@[simp] theorem fifoWrite_txring (s : State) (w : Word) : (s.fifoWrite w).txring = s.txring := rfl
@[simp] theorem fifoWrite_rxring (s : State) (w : Word) : (s.fifoWrite w).rxring = s.rxring := rfl
@[simp] theorem fifoWrite_txUnderflow (s : State) (w : Word) : (s.fifoWrite w).txUnderflow = s.txUnderflow := rfl
@[simp] theorem fifoWrite_rxOverflow (s : State) (w : Word) : (s.fifoWrite w).rxOverflow = s.rxOverflow := rfl
@[simp] theorem fifoWrite_inUse (s : State) (w : Word) : (s.fifoWrite w).inUse = s.inUse := rfl
@[simp] theorem fifoWrite_isrRegistered (s : State) (w : Word) : (s.fifoWrite w).isrRegistered = s.isrRegistered := rfl
@[simp] theorem fifoWrite_usageRef (s : State) (w : Word) : (s.fifoWrite w).usageRef = s.usageRef := rfl
@[simp] theorem fifoWrite_holder (s : State) (w : Word) : (s.fifoWrite w).holder = s.holder := rfl
@[simp] theorem fifoWrite_svcPending (s : State) (w : Word) : (s.fifoWrite w).svcPending = s.svcPending := rfl
@[simp] theorem fifoWrite_inService (s : State) (w : Word) : (s.fifoWrite w).inService = s.inService := rfl
@[simp] theorem fifoWrite_eng (s : State) (w : Word) : (s.fifoWrite w).eng = s.eng := rfl
@[simp] theorem fifoWrite_hostop (s : State) (w : Word) : (s.fifoWrite w).hostop = s.hostop := rfl
@[simp] theorem fifoWrite_clockRunning (s : State) (w : Word) : (s.fifoWrite w).clockRunning = s.clockRunning := rfl
@[simp] theorem fifoWrite_lineInRest (s : State) (w : Word) : (s.fifoWrite w).lineInRest = s.lineInRest := rfl
@[simp] theorem fifoWrite_lineOut (s : State) (w : Word) : (s.fifoWrite w).lineOut = s.lineOut := rfl
@[simp] theorem fifoWrite_held (s : State) (w : Word) : (s.fifoWrite w).held = s.held := rfl
@[simp] theorem fifoWrite_caller (s : State) (w : Word) : (s.fifoWrite w).caller = s.caller := rfl
@[simp] theorem fifoWrite_responses (s : State) (w : Word) : (s.fifoWrite w).responses = s.responses := rfl
@[simp] theorem fifoWrite_initReport (s : State) (w : Word) : (s.fifoWrite w).initReport = s.initReport := rfl
@[simp] theorem fifoWrite_call (s : State) (w : Word) : (s.fifoWrite w).call = s.call := rfl
@[simp] theorem fifoWrite_sched (s : State) (w : Word) : (s.fifoWrite w).sched = s.sched := rfl
@[simp] theorem fifoWrite_turns (s : State) (w : Word) : (s.fifoWrite w).turns = s.turns := rfl
@[simp] theorem fifoWrite_draws (s : State) (w : Word) : (s.fifoWrite w).draws = s.draws := rfl
@[simp] theorem fifoWrite_epoch (s : State) (w : Word) : (s.fifoWrite w).epoch = s.epoch := rfl

/-! ### `State.fifoPop` -/

@[simp] theorem fifoPop_cfg (s : State) : s.fifoPop.cfg = s.cfg := rfl
@[simp] theorem fifoPop_power (s : State) : s.fifoPop.power = s.power := rfl
@[simp] theorem fifoPop_csEn (s : State) : s.fifoPop.csEn = s.csEn := rfl
@[simp] theorem fifoPop_csRxon (s : State) : s.fifoPop.csRxon = s.csRxon := rfl
@[simp] theorem fifoPop_csTxon (s : State) : s.fifoPop.csTxon = s.csTxon := rfl
@[simp] theorem fifoPop_txclrPending (s : State) : s.fifoPop.txclrPending = s.txclrPending := rfl
@[simp] theorem fifoPop_rxclrPending (s : State) : s.fifoPop.rxclrPending = s.rxclrPending := rfl
@[simp] theorem fifoPop_mode (s : State) : s.fifoPop.mode = s.mode := rfl
@[simp] theorem fifoPop_rxc (s : State) : s.fifoPop.rxc = s.rxc := rfl
@[simp] theorem fifoPop_txc (s : State) : s.fifoPop.txc = s.txc := rfl
@[simp] theorem fifoPop_dreq (s : State) : s.fifoPop.dreq = s.dreq := rfl
@[simp] theorem fifoPop_gray (s : State) : s.fifoPop.gray = s.gray := rfl
@[simp] theorem fifoPop_intenTxw (s : State) : s.fifoPop.intenTxw = s.intenTxw := rfl
@[simp] theorem fifoPop_intenRxr (s : State) : s.fifoPop.intenRxr = s.intenRxr := rfl
@[simp] theorem fifoPop_intstcTxw (s : State) : s.fifoPop.intstcTxw = s.intstcTxw := rfl
@[simp] theorem fifoPop_intstcRxr (s : State) : s.fifoPop.intstcRxr = s.intstcRxr := rfl
@[simp] theorem fifoPop_txfifo (s : State) : s.fifoPop.txfifo = s.txfifo := rfl
@[simp] theorem fifoPop_rxfifo (s : State) : s.fifoPop.rxfifo = s.rxfifo.tail := rfl
@[simp] theorem fifoPop_txring (s : State) : s.fifoPop.txring = s.txring := rfl
@[simp] theorem fifoPop_rxring (s : State) : s.fifoPop.rxring = s.rxring := rfl
@[simp] theorem fifoPop_txUnderflow (s : State) : s.fifoPop.txUnderflow = s.txUnderflow := rfl
@[simp] theorem fifoPop_rxOverflow (s : State) : s.fifoPop.rxOverflow = s.rxOverflow := rfl
@[simp] theorem fifoPop_inUse (s : State) : s.fifoPop.inUse = s.inUse := rfl
@[simp] theorem fifoPop_isrRegistered (s : State) : s.fifoPop.isrRegistered = s.isrRegistered := rfl
@[simp] theorem fifoPop_usageRef (s : State) : s.fifoPop.usageRef = s.usageRef := rfl
@[simp] theorem fifoPop_holder (s : State) : s.fifoPop.holder = s.holder := rfl
@[simp] theorem fifoPop_svcPending (s : State) : s.fifoPop.svcPending = s.svcPending := rfl
@[simp] theorem fifoPop_inService (s : State) : s.fifoPop.inService = s.inService := rfl
@[simp] theorem fifoPop_eng (s : State) : s.fifoPop.eng = s.eng := rfl
@[simp] theorem fifoPop_hostop (s : State) : s.fifoPop.hostop = s.hostop := rfl
@[simp] theorem fifoPop_clockRunning (s : State) : s.fifoPop.clockRunning = s.clockRunning := rfl
@[simp] theorem fifoPop_lineInRest (s : State) : s.fifoPop.lineInRest = s.lineInRest := rfl
@[simp] theorem fifoPop_lineOut (s : State) : s.fifoPop.lineOut = s.lineOut := rfl
@[simp] theorem fifoPop_held (s : State) : s.fifoPop.held = s.held := rfl
@[simp] theorem fifoPop_caller (s : State) : s.fifoPop.caller = s.caller := rfl
@[simp] theorem fifoPop_responses (s : State) : s.fifoPop.responses = s.responses := rfl
@[simp] theorem fifoPop_initReport (s : State) : s.fifoPop.initReport = s.initReport := rfl
@[simp] theorem fifoPop_call (s : State) : s.fifoPop.call = s.call := rfl
@[simp] theorem fifoPop_sched (s : State) : s.fifoPop.sched = s.sched := rfl
@[simp] theorem fifoPop_turns (s : State) : s.fifoPop.turns = s.turns := rfl
@[simp] theorem fifoPop_draws (s : State) : s.fifoPop.draws = if s.rxd then s.draws else s.draws + 1 := rfl
@[simp] theorem fifoPop_epoch (s : State) : s.fifoPop.epoch = s.epoch := rfl

/-! ### `State.goPhase` -/

@[simp] theorem goPhase_cfg (s : State) (p : Phase) : (s.goPhase p).cfg = s.cfg := rfl
@[simp] theorem goPhase_power (s : State) (p : Phase) : (s.goPhase p).power = s.power := rfl
@[simp] theorem goPhase_csEn (s : State) (p : Phase) : (s.goPhase p).csEn = s.csEn := rfl
@[simp] theorem goPhase_csRxon (s : State) (p : Phase) : (s.goPhase p).csRxon = s.csRxon := rfl
@[simp] theorem goPhase_csTxon (s : State) (p : Phase) : (s.goPhase p).csTxon = s.csTxon := rfl
@[simp] theorem goPhase_txclrPending (s : State) (p : Phase) : (s.goPhase p).txclrPending = s.txclrPending := rfl
@[simp] theorem goPhase_rxclrPending (s : State) (p : Phase) : (s.goPhase p).rxclrPending = s.rxclrPending := rfl
@[simp] theorem goPhase_mode (s : State) (p : Phase) : (s.goPhase p).mode = s.mode := rfl
@[simp] theorem goPhase_rxc (s : State) (p : Phase) : (s.goPhase p).rxc = s.rxc := rfl
@[simp] theorem goPhase_txc (s : State) (p : Phase) : (s.goPhase p).txc = s.txc := rfl
@[simp] theorem goPhase_dreq (s : State) (p : Phase) : (s.goPhase p).dreq = s.dreq := rfl
@[simp] theorem goPhase_gray (s : State) (p : Phase) : (s.goPhase p).gray = s.gray := rfl
@[simp] theorem goPhase_intenTxw (s : State) (p : Phase) : (s.goPhase p).intenTxw = s.intenTxw := rfl
@[simp] theorem goPhase_intenRxr (s : State) (p : Phase) : (s.goPhase p).intenRxr = s.intenRxr := rfl
@[simp] theorem goPhase_intstcTxw (s : State) (p : Phase) : (s.goPhase p).intstcTxw = s.intstcTxw := rfl
@[simp] theorem goPhase_intstcRxr (s : State) (p : Phase) : (s.goPhase p).intstcRxr = s.intstcRxr := rfl
@[simp] theorem goPhase_txfifo (s : State) (p : Phase) : (s.goPhase p).txfifo = s.txfifo := rfl
@[simp] theorem goPhase_rxfifo (s : State) (p : Phase) : (s.goPhase p).rxfifo = s.rxfifo := rfl
@[simp] theorem goPhase_txring (s : State) (p : Phase) : (s.goPhase p).txring = s.txring := rfl
@[simp] theorem goPhase_rxring (s : State) (p : Phase) : (s.goPhase p).rxring = s.rxring := rfl
@[simp] theorem goPhase_txUnderflow (s : State) (p : Phase) : (s.goPhase p).txUnderflow = s.txUnderflow := rfl
@[simp] theorem goPhase_rxOverflow (s : State) (p : Phase) : (s.goPhase p).rxOverflow = s.rxOverflow := rfl
@[simp] theorem goPhase_inUse (s : State) (p : Phase) : (s.goPhase p).inUse = s.inUse := rfl
@[simp] theorem goPhase_isrRegistered (s : State) (p : Phase) : (s.goPhase p).isrRegistered = s.isrRegistered := rfl
@[simp] theorem goPhase_usageRef (s : State) (p : Phase) : (s.goPhase p).usageRef = s.usageRef := rfl
@[simp] theorem goPhase_holder (s : State) (p : Phase) : (s.goPhase p).holder = s.holder := rfl
@[simp] theorem goPhase_svcPending (s : State) (p : Phase) : (s.goPhase p).svcPending = s.svcPending := rfl
@[simp] theorem goPhase_inService (s : State) (p : Phase) : (s.goPhase p).inService = s.inService := rfl
@[simp] theorem goPhase_eng (s : State) (p : Phase) : (s.goPhase p).eng = ⟨p, 0⟩ := rfl
@[simp] theorem goPhase_hostop (s : State) (p : Phase) : (s.goPhase p).hostop = s.hostop := rfl
@[simp] theorem goPhase_clockRunning (s : State) (p : Phase) : (s.goPhase p).clockRunning = s.clockRunning := rfl
@[simp] theorem goPhase_lineInRest (s : State) (p : Phase) : (s.goPhase p).lineInRest = s.lineInRest := rfl
@[simp] theorem goPhase_lineOut (s : State) (p : Phase) : (s.goPhase p).lineOut = s.lineOut := rfl
@[simp] theorem goPhase_held (s : State) (p : Phase) : (s.goPhase p).held = s.held := rfl
@[simp] theorem goPhase_caller (s : State) (p : Phase) : (s.goPhase p).caller = s.caller := rfl
@[simp] theorem goPhase_responses (s : State) (p : Phase) : (s.goPhase p).responses = s.responses := rfl
@[simp] theorem goPhase_initReport (s : State) (p : Phase) : (s.goPhase p).initReport = s.initReport := rfl
@[simp] theorem goPhase_call (s : State) (p : Phase) : (s.goPhase p).call = s.call := rfl
@[simp] theorem goPhase_sched (s : State) (p : Phase) : (s.goPhase p).sched = s.sched := rfl
@[simp] theorem goPhase_turns (s : State) (p : Phase) : (s.goPhase p).turns = s.turns := rfl
@[simp] theorem goPhase_draws (s : State) (p : Phase) : (s.goPhase p).draws = s.draws := rfl
@[simp] theorem goPhase_epoch (s : State) (p : Phase) : (s.goPhase p).epoch = s.epoch := rfl

/-! ### `State.afterChoice` -/

@[simp] theorem afterChoice_cfg (s : State) : s.afterChoice.cfg = s.cfg := rfl
@[simp] theorem afterChoice_power (s : State) : s.afterChoice.power = s.power := rfl
@[simp] theorem afterChoice_csEn (s : State) : s.afterChoice.csEn = s.csEn := rfl
@[simp] theorem afterChoice_csRxon (s : State) : s.afterChoice.csRxon = s.csRxon := rfl
@[simp] theorem afterChoice_csTxon (s : State) : s.afterChoice.csTxon = s.csTxon := rfl
@[simp] theorem afterChoice_txclrPending (s : State) : s.afterChoice.txclrPending = s.txclrPending := rfl
@[simp] theorem afterChoice_rxclrPending (s : State) : s.afterChoice.rxclrPending = s.rxclrPending := rfl
@[simp] theorem afterChoice_mode (s : State) : s.afterChoice.mode = s.mode := rfl
@[simp] theorem afterChoice_rxc (s : State) : s.afterChoice.rxc = s.rxc := rfl
@[simp] theorem afterChoice_txc (s : State) : s.afterChoice.txc = s.txc := rfl
@[simp] theorem afterChoice_dreq (s : State) : s.afterChoice.dreq = s.dreq := rfl
@[simp] theorem afterChoice_gray (s : State) : s.afterChoice.gray = s.gray := rfl
@[simp] theorem afterChoice_intenTxw (s : State) : s.afterChoice.intenTxw = s.intenTxw := rfl
@[simp] theorem afterChoice_intenRxr (s : State) : s.afterChoice.intenRxr = s.intenRxr := rfl
@[simp] theorem afterChoice_intstcTxw (s : State) : s.afterChoice.intstcTxw = s.intstcTxw := rfl
@[simp] theorem afterChoice_intstcRxr (s : State) : s.afterChoice.intstcRxr = s.intstcRxr := rfl
@[simp] theorem afterChoice_txfifo (s : State) : s.afterChoice.txfifo = s.txfifo := rfl
@[simp] theorem afterChoice_rxfifo (s : State) : s.afterChoice.rxfifo = s.rxfifo := rfl
@[simp] theorem afterChoice_txring (s : State) : s.afterChoice.txring = s.txring := rfl
@[simp] theorem afterChoice_rxring (s : State) : s.afterChoice.rxring = s.rxring := rfl
@[simp] theorem afterChoice_txUnderflow (s : State) : s.afterChoice.txUnderflow = s.txUnderflow := rfl
@[simp] theorem afterChoice_rxOverflow (s : State) : s.afterChoice.rxOverflow = s.rxOverflow := rfl
@[simp] theorem afterChoice_inUse (s : State) : s.afterChoice.inUse = s.inUse := rfl
@[simp] theorem afterChoice_isrRegistered (s : State) : s.afterChoice.isrRegistered = s.isrRegistered := rfl
@[simp] theorem afterChoice_usageRef (s : State) : s.afterChoice.usageRef = s.usageRef := rfl
@[simp] theorem afterChoice_holder (s : State) : s.afterChoice.holder = s.holder := rfl
@[simp] theorem afterChoice_svcPending (s : State) : s.afterChoice.svcPending = s.svcPending := rfl
@[simp] theorem afterChoice_inService (s : State) : s.afterChoice.inService = s.inService := rfl
@[simp] theorem afterChoice_eng (s : State) : s.afterChoice.eng = s.eng := rfl
@[simp] theorem afterChoice_hostop (s : State) : s.afterChoice.hostop = s.hostop := rfl
@[simp] theorem afterChoice_clockRunning (s : State) : s.afterChoice.clockRunning = s.clockRunning := rfl
@[simp] theorem afterChoice_lineInRest (s : State) : s.afterChoice.lineInRest = s.lineInRest := rfl
@[simp] theorem afterChoice_lineOut (s : State) : s.afterChoice.lineOut = s.lineOut := rfl
@[simp] theorem afterChoice_held (s : State) : s.afterChoice.held = s.held := rfl
@[simp] theorem afterChoice_caller (s : State) : s.afterChoice.caller = s.caller := rfl
@[simp] theorem afterChoice_responses (s : State) : s.afterChoice.responses = s.responses := rfl
@[simp] theorem afterChoice_initReport (s : State) : s.afterChoice.initReport = s.initReport := rfl
@[simp] theorem afterChoice_call (s : State) : s.afterChoice.call = s.call := rfl
@[simp] theorem afterChoice_sched (s : State) : s.afterChoice.sched = s.sched.tail := rfl
@[simp] theorem afterChoice_turns (s : State) : s.afterChoice.turns = if s.sched.isEmpty then s.turns + 1 else s.turns := rfl
@[simp] theorem afterChoice_draws (s : State) : s.afterChoice.draws = s.draws := rfl
@[simp] theorem afterChoice_epoch (s : State) : s.afterChoice.epoch = s.epoch := rfl

/-! ### `State.csUpdate`: each field update touches its field alone (R84) -/

@[simp] theorem csUpdate_en (s : State) (b : Bool) : s.csUpdate .en b = { s with csEn := b } := rfl
@[simp] theorem csUpdate_rxon (s : State) (b : Bool) : s.csUpdate .rxon b = { s with csRxon := b } := rfl
@[simp] theorem csUpdate_txon (s : State) (b : Bool) : s.csUpdate .txon b = { s with csTxon := b } := rfl
@[simp] theorem csUpdate_txclr (s : State) (b : Bool) :
    s.csUpdate .txclr b = { s with txclrPending := s.txclrPending || b } := rfl
@[simp] theorem csUpdate_rxclr (s : State) (b : Bool) :
    s.csUpdate .rxclr b = { s with rxclrPending := s.rxclrPending || b } := rfl

end Sys2Proof.Laws
end

