-- ==== Sys2Proof/Laws/Step.lean ====
section
/-! SUPPORT. Said once: when a request goes through (R135), what the latches do (R21, R22), what a step can be (R7), and
how a list of moves runs. -/

namespace Sys2Proof.Laws

open Sys2Proof.Machine

/-! ### The host port -/

theorem whenHolder_issuable {s : State} (t : State) (h : s.Issuable) : whenHolder s t = .next t := by
  obtain ⟨hp, hu, hh, ho, hc⟩ := h
  simp [whenHolder, hp, hu, hh, ho, hc]

/-- A request other than `OPEN` goes through only for the holder of an open session with nothing in flight. -/
theorem whenHolder_next {s t u : State} (h : whenHolder s t = .next u) : u = t ∧ s.Issuable := by
  unfold whenHolder at h
  split at h
  · cases h
  · cases h
  · next hp =>
    split at h
    · cases h
    · next hu =>
      split at h
      · cases h
      · next hh =>
        split at h
        · cases h
        · next hc =>
          simp only [Bool.or_eq_true, Option.isSome_iff_ne_none, not_or, Decidable.not_not] at hc
          cases h
          exact ⟨rfl, hp, by simpa using hu, by simpa using hh, hc.1, hc.2⟩

theorem whenReady_ready {s : State} (t : State) (h : s.power = .ready) : whenReady s t = .next t := by
  simp [whenReady, h]

theorem whenReady_next {s t u : State} (h : whenReady s t = .next u) : u = t ∧ s.power = .ready := by
  unfold whenReady at h
  split at h
  · cases h
  · cases h
  · next hp => cases h; exact ⟨rfl, hp⟩

/-- Every operation but `OPEN` needs an issuable request. -/
theorem exec_next_issuable {i : Instr} {s t : State} (h : exec i s = .next t) (hi : i ≠ .openSession) :
    s.Issuable := by
  cases i
  case openSession => exact absurd rfl hi
  all_goals exact (whenHolder_next h).2

/-- Every operation needs a ready block. -/
theorem exec_next_ready {i : Instr} {s t : State} (h : exec i s = .next t) : s.power = .ready := by
  by_cases hi : i = .openSession
  · subst hi; exact (whenReady_next h).2
  · exact (exec_next_issuable h hi).1

/-! ### Latches -/

theorem latchedTxw_iff (s : State) : s.latchedTxw = true ↔
    s.intstcTxw = true ∨ (s.power = .ready ∧ s.txfifo.length < s.cfg.txReadyLevel ∧ s.intenTxw = true) := by
  simp [State.latchedTxw, State.live, State.txw, and_assoc]

theorem latchedRxr_iff (s : State) : s.latchedRxr = true ↔
    s.intstcRxr = true ∨ (s.power = .ready ∧ s.cfg.rxReadyLevel ≤ s.rxfifo.length ∧ s.intenRxr = true) := by
  simp [State.latchedRxr, State.live, State.rxr, and_assoc]

/-- A state is settled when each flag whose condition and enable hold is already set. -/
theorem settled_of_latched {s : State} (ht : s.latchedTxw = s.intstcTxw) (hr : s.latchedRxr = s.intstcRxr) :
    s.Settled := by
  have he : s.risingEdge = false := by
    simp only [State.risingEdge, ht, hr, State.irqLine]
    cases s.isrRegistered <;> cases s.intstcTxw <;> cases s.intstcRxr <;> rfl
  simp [State.Settled, State.settle, ht, hr, he]

theorem settled_latched {s : State} (h : s.Settled) :
    s.latchedTxw = s.intstcTxw ∧ s.latchedRxr = s.intstcRxr :=
  ⟨congrArg State.intstcTxw h, congrArg State.intstcRxr h⟩

/-- Being settled is a matter of the flags, their enables, the FIFO levels and the power state. -/
theorem settled_congr {s t : State} (h : s.Settled) (hc : t.cfg = s.cfg) (hp : t.power = s.power)
    (htx : t.txfifo.length = s.txfifo.length) (hrx : t.rxfifo.length = s.rxfifo.length)
    (h1 : t.intenTxw = s.intenTxw) (h2 : t.intenRxr = s.intenRxr) (h3 : t.intstcTxw = s.intstcTxw)
    (h4 : t.intstcRxr = s.intstcRxr) : t.Settled := by
  obtain ⟨ha, hb⟩ := settled_latched h
  refine settled_of_latched ?_ ?_
  · rw [h3, ← ha]; simp [State.latchedTxw, State.live, State.txw, hc, hp, htx, h1, h3]
  · rw [h4, ← hb]; simp [State.latchedRxr, State.live, State.rxr, hc, hp, hrx, h2, h4]

theorem settle_settled (s : State) : s.settle.Settled := by
  refine settled_of_latched ?_ ?_
  · show (s.latchedTxw || (s.live && s.txw && s.intenTxw)) = s.latchedTxw
    unfold State.latchedTxw
    cases s.intstcTxw <;> cases (s.live && s.txw && s.intenTxw) <;> rfl
  · show (s.latchedRxr || (s.live && s.rxr && s.intenRxr)) = s.latchedRxr
    unfold State.latchedRxr
    cases s.intstcRxr <;> cases (s.live && s.rxr && s.intenRxr) <;> rfl

/-! ### Steps -/

theorem settleOutcome_next {o : Host.Outcome State Fault Refusal} {u : State} (h : settleOutcome o = .next u) :
    ∃ t, o = .next t ∧ u = t.settle := by
  cases o with
  | next t => exact ⟨t, rfl, by simpa [settleOutcome] using h.symm⟩
  | fault f => cases h
  | refused r => cases h

/-- What a step can be: a move of a block that has not failed, then the latches. -/
theorem step_next {s u : State} (h : step s = .next u) :
    ∃ t, s.power ≠ .failed ∧ s.afterChoice.move s.nextMove = .next t ∧ u = t.settle := by
  obtain ⟨t, ht, hu⟩ := settleOutcome_next h
  unfold State.act at ht
  split at ht
  · cases ht
  · next hp => exact ⟨t, by simpa using hp, ht, hu⟩

theorem act_move {s : State} (m : Move) (h : s.power ≠ .failed) : s.act m = s.move m := by
  simp [State.act, h]

/-- A step whose move is fixed by the schedule. -/
theorem step_sched {s : State} {m : Move} {rest : List Move} (h : s.sched = m :: rest) :
    step s = settleOutcome ({ s with sched := rest }.act m) := by
  simp [step, State.nextMove, State.afterChoice, h]

@[simp] theorem run_zero (s : State) : Sys2Proof.core.run 0 s = .next s := rfl

theorem run_succ (k : Nat) (s : State) : Sys2Proof.core.run (k + 1) s =
    match step s with
    | .next t => Sys2Proof.core.run k t
    | .fault r => .fault r
    | .refused r => .refused r := by
  cases hs : step s <;> simp [Host.Core.run, show Sys2Proof.core.step s = _ from hs]

theorem run_step {s t : State} (k : Nat) (h : step s = .next t) :
    Sys2Proof.core.run (k + 1) s = Sys2Proof.core.run k t := by
  rw [run_succ, h]

/-- Runs compose. -/
theorem run_add {s t : State} (j k : Nat) (h : Sys2Proof.core.run j s = .next t) :
    Sys2Proof.core.run (j + k) s = Sys2Proof.core.run k t := by
  induction j generalizing s with
  | zero => cases h; simp
  | succ j ih =>
    rw [Nat.succ_add, run_succ]
    rw [run_succ] at h
    cases hs : step s with
    | next u => rw [hs] at h; exact ih h
    | fault r => rw [hs] at h; cases h
    | refused r => rw [hs] at h; cases h

end Sys2Proof.Laws
end

