-- ==== Sys2Proof/Laws/Engine.lean ====
section
/-! SUPPORT. Said once: what each step of the Transfer Engine can do (R110 to R123). -/

namespace Sys2Proof.Laws

open Sys2Proof.Machine

/-- The engine's move in a ready block. -/
theorem act_engine {s : State} (h : s.power = .ready) : s.act .engine = .next s.engineStep := by
  simp [State.act, State.move, State.live, h]

/-- Two `FifoWrite`s of the zero word (R82, R116): the second is lost where one place was free. -/
theorem txTrip_eq {s : State} (h : s.txfifo.length ≤ s.cfg.hwFifoDepth) :
    s.txTrip =
      { s with
        csTxon := false
        txfifo := (s.txfifo ++ [0#32, 0#32]).take s.cfg.hwFifoDepth
        txUnderflow := 0 } := by
  have hf : s.txTrip.txfifo = (s.txfifo ++ [0#32, 0#32]).take s.cfg.hwFifoDepth := by
    simp only [State.txTrip, State.fifoWrite, State.txd, csUpdate_txon]
    rcases Nat.lt_or_ge s.txfifo.length s.cfg.hwFifoDepth with h1 | h1
    · rcases Nat.lt_or_ge (s.txfifo.length + 1) s.cfg.hwFifoDepth with h2 | h2
      · simp only [h1, decide_true, if_true, List.length_append, List.length_singleton, h2]
        rw [List.take_of_length_le (by simp; omega), List.append_assoc]
        rfl
      · have h3 : ¬ s.txfifo.length + 1 < s.cfg.hwFifoDepth := by omega
        have h4 : s.cfg.hwFifoDepth = s.txfifo.length + 1 := by omega
        simp only [h1, decide_true, if_true, List.length_append, List.length_singleton, h3, decide_false]
        simp [h4, List.take_append]
    · have h3 : ¬ s.txfifo.length < s.cfg.hwFifoDepth := by omega
      have h4 : s.cfg.hwFifoDepth = s.txfifo.length := by omega
      simp [h4]
  rw [← hf]
  rfl

theorem tripReached_iff (c : Config) (n : Nat) : tripReached c n = true ↔ c.threshold ≤ n := by
  simp [tripReached]

/-- Underflow accounting (R115). -/
theorem countUnderflow_cases (s : State) (h : s.txfifo.length ≤ s.cfg.hwFifoDepth) :
    (min (s.txUnderflow + 1) s.cfg.counterMax < s.cfg.threshold ∧
      s.countUnderflow = { s with txUnderflow := min (s.txUnderflow + 1) s.cfg.counterMax }) ∨
    (s.cfg.threshold ≤ min (s.txUnderflow + 1) s.cfg.counterMax ∧
      s.countUnderflow =
        { s with
          csTxon := false
          txfifo := (s.txfifo ++ [0#32, 0#32]).take s.cfg.hwFifoDepth
          txUnderflow := 0 }) := by
  rcases Nat.lt_or_ge (min (s.txUnderflow + 1) s.cfg.counterMax) s.cfg.threshold with hc | hc
  · exact .inl ⟨hc, if_neg fun ht => absurd ((tripReached_iff _ _).mp ht) (Nat.not_le.mpr hc)⟩
  · refine .inr ⟨hc, (if_pos ((tripReached_iff _ _).mpr hc)).trans ?_⟩
    exact txTrip_eq (s := { s with txUnderflow := satInc s.cfg s.txUnderflow }) h

theorem tail_tail_eq_drop (l : List Word) : l.tail.tail = l.drop 2 := by
  rcases l with _ | ⟨_, _ | ⟨_, _⟩⟩ <;> rfl

/-- Overflow accounting (R120, R121). -/
theorem countOverflow_cases (s : State) :
    (min (s.rxOverflow + 1) s.cfg.counterMax < s.cfg.threshold ∧
      s.countOverflow = { s with rxOverflow := min (s.rxOverflow + 1) s.cfg.counterMax }) ∨
    (s.cfg.threshold ≤ min (s.rxOverflow + 1) s.cfg.counterMax ∧
      s.countOverflow =
        { s with
          csRxon := false
          rxfifo := s.rxfifo.drop 2
          rxOverflow := 0
          draws := s.countOverflow.draws }) := by
  rcases Nat.lt_or_ge (min (s.rxOverflow + 1) s.cfg.counterMax) s.cfg.threshold with hc | hc
  · exact .inl ⟨hc, if_neg fun ht => absurd ((tripReached_iff _ _).mp ht) (Nat.not_le.mpr hc)⟩
  · refine .inr ⟨hc, ?_⟩
    have ht : s.countOverflow = { s with rxOverflow := satInc s.cfg s.rxOverflow }.rxTrip :=
      if_pos ((tripReached_iff _ _).mpr hc)
    rw [ht, ← tail_tail_eq_drop]
    rfl

/-- One iteration of the S2 loop (R113). -/
theorem s2loop_cases (s : State) :
    ((s.cfg.batchLimit ≤ s.eng.i ∨ s.cfg.hwFifoDepth ≤ s.txfifo.length) ∧ s.s2loop = s.goPhase .s3test) ∨
    (s.eng.i < s.cfg.batchLimit ∧ s.txfifo.length < s.cfg.hwFifoDepth ∧ s.txring.head ≠ s.txring.tail ∧
      s.s2loop =
        { s with
          txring := { s.txring with tail := (s.txring.tail + 1) % (s.cfg.nTx + 1) }
          txfifo := s.txfifo ++ [fifoWordOf (s.txring.slot s.txFree s.txring.tail)]
          eng := ⟨.s2loop, s.eng.i + 1⟩ }) ∨
    (s.eng.i < s.cfg.batchLimit ∧ s.txfifo.length < s.cfg.hwFifoDepth ∧ s.txring.head = s.txring.tail ∧
      s.s2loop = s.countUnderflow.goPhase .s3test) := by
  unfold State.s2loop
  rcases Nat.lt_or_ge s.eng.i s.cfg.batchLimit with h1 | h1
  · rcases Nat.lt_or_ge s.txfifo.length s.cfg.hwFifoDepth with h2 | h2
    · rcases tryRead_cases s.cfg.nTx s.txFree s.txring with ⟨h3, h4⟩ | ⟨h3, h4⟩
      · exact .inr (.inr ⟨h1, h2, h3, by simp [Nat.not_le.mpr h1, State.txd, h2, h4]⟩)
      · exact .inr (.inl ⟨h1, h2, h3, by simp [Nat.not_le.mpr h1, State.txd, h2, h4, State.fifoWrite]⟩)
    · exact .inl ⟨.inr h2, by simp [State.txd, Nat.not_lt.mpr h2]⟩
  · exact .inl ⟨.inl h1, by simp [h1]⟩

/-- One iteration of the S3 loop (R118). -/
theorem s3loop_cases (s : State) :
    ((s.cfg.batchLimit ≤ s.eng.i ∨ s.rxfifo = []) ∧ s.s3loop = s.goPhase .s4) ∨
    ∃ w rest, s.rxfifo = w :: rest ∧ s.eng.i < s.cfg.batchLimit ∧
      (((s.rxring.head + 1) % (s.cfg.nRx + 1) ≠ s.rxring.tail ∧
        s.s3loop =
          { s with
            rxfifo := rest
            rxring :=
              { s.rxring with
                slots := s.rxring.slots.write s.rxring.head (sampleOf w)
                head := (s.rxring.head + 1) % (s.cfg.nRx + 1) }
            eng := ⟨.s3loop, s.eng.i + 1⟩ }) ∨
      ((s.rxring.head + 1) % (s.cfg.nRx + 1) = s.rxring.tail ∧
        s.s3loop = ({ s with rxfifo := rest }.countOverflow).goPhase .s4)) := by
  unfold State.s3loop
  rcases Nat.lt_or_ge s.eng.i s.cfg.batchLimit with h1 | h1
  · cases h2 : s.rxfifo with
    | nil => exact .inl ⟨.inr rfl, by simp [State.rxd, h2]⟩
    | cons w rest =>
      refine .inr ⟨w, rest, rfl, h1, ?_⟩
      have hpop : s.fifoPop = { s with rxfifo := rest } := by simp [State.fifoPop, State.rxd, h2]
      have hword : s.fifoReadWord = w := by simp [State.fifoReadWord, h2]
      have hguard : ¬ s.cfg.batchLimit ≤ s.eng.i := by omega
      have hrxd : ¬ s.rxd = false := by simp [State.rxd, h2]
      rw [if_neg hguard, if_neg hrxd, hword, hpop]
      rcases tryWrite_cases s.cfg.nRx s.rxring (sampleOf w) with ⟨h3, h4⟩ | ⟨h3, h4⟩
      · exact .inr ⟨h3, by rw [h4]⟩
      · exact .inl ⟨h3, by rw [h4]⟩
  · exact .inl ⟨.inl h1, by simp [h1]⟩

end Sys2Proof.Laws
end

