-- ==== Sys2Proof/Laws/Frames.lean ====
section
/-! SUPPORT. What each kind of move can change. Each lemma writes the state after as the state before with the fields
that may differ, so that every field not named is unchanged. -/

namespace Sys2Proof.Laws

open Sys2Proof.Machine

/-- The fields a host operation may write: the enables, the pending clears, the rings and the session. -/
def hostFields (s t : State) : State :=
  { s with
    csEn := t.csEn
    csRxon := t.csRxon
    csTxon := t.csTxon
    txclrPending := t.txclrPending
    rxclrPending := t.rxclrPending
    txring := t.txring
    rxring := t.rxring
    txUnderflow := t.txUnderflow
    rxOverflow := t.rxOverflow
    inUse := t.inUse
    isrRegistered := t.isrRegistered
    usageRef := t.usageRef
    holder := t.holder
    svcPending := t.svcPending
    hostop := t.hostop
    held := t.held
    responses := t.responses }

theorem readIter_frame (s : State) (p : ProcId) (w : Nat) (got : List Byte) :
    s.readIter p w got =
      { s with
        rxring := (s.readIter p w got).rxring
        hostop := (s.readIter p w got).hostop
        responses := (s.readIter p w got).responses } := by
  unfold State.readIter
  split <;> rfl

theorem writeIter_frame (s : State) (p : ProcId) (payload : List Byte) (k : Nat) :
    s.writeIter p payload k =
      { s with
        txring := (s.writeIter p payload k).txring
        hostop := (s.writeIter p payload k).hostop
        responses := (s.writeIter p payload k).responses } := by
  unfold State.writeIter
  split <;> rfl

/-- An enable command changes its field and the responses (R145 to R147, R151). -/
theorem setEnable_frame (s : State) (f : CsField) (arg : Word) (hf : f = .en ∨ f = .txon ∨ f = .rxon) :
    s.setEnable f arg =
      { s with
        csEn := (s.setEnable f arg).csEn
        csRxon := (s.setEnable f arg).csRxon
        csTxon := (s.setEnable f arg).csTxon
        responses := (s.setEnable f arg).responses } := by
  unfold State.setEnable
  split
  · rfl
  · rcases hf with rfl | rfl | rfl <;> rfl

/-- A host operation writes host fields only. -/
theorem exec_frame {i : Instr} {s t : State} (h : exec i s = .next t) : t = hostFields s t := by
  cases i
  case openSession =>
    obtain ⟨rfl, _⟩ := whenReady_next h
    split <;> rfl
  all_goals obtain ⟨rfl, _⟩ := whenHolder_next h
  case closeSession => split <;> rfl
  case read => rw [readIter_frame]; rfl
  case write => split <;> rfl
  case setEn => rw [setEnable_frame _ _ _ (.inl rfl)]; rfl
  case setTxEn => rw [setEnable_frame _ _ _ (.inr (.inl rfl))]; rfl
  case setRxEn => rw [setEnable_frame _ _ _ (.inr (.inr rfl))]; rfl
  all_goals rfl

theorem clearTxStep_frame {p : ProcId} {next : ClearStep} {saved : Bool} {s t : State}
    (h : s.clearTxStep p next saved = .next t) :
    t = { s with
          csTxon := t.csTxon, txclrPending := t.txclrPending, hostop := t.hostop, responses := t.responses } := by
  unfold State.clearTxStep at h
  split at h
  · split at h
    · cases h
    · cases h; rfl
  · split at h <;> cases h <;> rfl
  · cases saved <;> cases h <;> rfl

theorem clearRxStep_frame {p : ProcId} {next : ClearStep} {saved : Bool} {s t : State}
    (h : s.clearRxStep p next saved = .next t) :
    t = { s with
          csRxon := t.csRxon, rxclrPending := t.rxclrPending, hostop := t.hostop, responses := t.responses } := by
  unfold State.clearRxStep at h
  split at h
  · split at h
    · cases h
    · cases h; rfl
  · split at h <;> cases h <;> rfl
  · cases saved <;> cases h <;> rfl

/-- A step of the operation in flight writes host fields only. -/
theorem hostStep_frame {s t : State} (h : s.hostStep = .next t) : t = hostFields s t := by
  unfold State.hostStep at h
  split at h
  · cases h; rw [readIter_frame]; rfl
  · cases h; rw [writeIter_frame]; rfl
  · rw [clearTxStep_frame h]; rfl
  · rw [clearRxStep_frame h]; rfl
  · cases h
    unfold State.retryClose
    split <;> rfl
  · cases h; rfl

/-- Issuing a request writes the process on the port and host fields. -/
theorem issue_frame {p : ProcId} {r : Request} {s t : State} (h : s.issue p r = .next t) :
    t = hostFields { s with caller := p } t := by
  unfold State.issue at h
  cases hd : decode r with
  | ok i => rw [hd] at h; exact exec_frame h
  | error e =>
    rw [hd] at h
    obtain ⟨rfl, _⟩ := whenHolder_next h
    rfl

/-- A step of a pseudo-operation writes its own progress, the process on the port and host fields. -/
theorem callStep_frame {s t : State} (h : s.callStep = .next t) :
    t = hostFields { s with caller := t.caller, call := t.call } t := by
  unfold State.callStep at h
  split at h
  · cases h; rfl
  · split at h
    · unfold State.callIssue at h
      split at h
      · rw [issue_frame h]; rfl
      · cases h; rfl
    · split at h <;> cases h <;> rfl

/-- The Transfer Engine's fields. -/
theorem engineStep_frame (s : State) :
    s.engineStep =
      { s with
        csRxon := s.engineStep.csRxon
        csTxon := s.engineStep.csTxon
        intstcTxw := s.engineStep.intstcTxw
        intstcRxr := s.engineStep.intstcRxr
        txfifo := s.engineStep.txfifo
        rxfifo := s.engineStep.rxfifo
        txring := s.engineStep.txring
        rxring := s.engineStep.rxring
        txUnderflow := s.engineStep.txUnderflow
        rxOverflow := s.engineStep.rxOverflow
        svcPending := s.engineStep.svcPending
        inService := s.engineStep.inService
        eng := s.engineStep.eng
        draws := s.engineStep.draws } := by
  unfold State.engineStep
  split
  · split <;> rfl
  · unfold State.s2test; split <;> rfl
  · unfold State.s2loop
    split; · rfl
    split; · rfl
    split; · rfl
    unfold State.countUnderflow
    simp only
    split <;> rfl
  · unfold State.s3test; split <;> rfl
  · unfold State.s3loop
    split; · rfl
    split; · rfl
    split; · rfl
    unfold State.countOverflow
    simp only
    split <;> rfl
  · rfl
  · rfl

theorem txTick_frame (s : State) : s.txTick = { s with txfifo := s.txTick.txfifo, lineOut := s.txTick.lineOut } := by
  unfold State.txTick
  split <;> rfl

theorem rxTick_frame (s : State) :
    s.rxTick = { s with lineInRest := s.rxTick.lineInRest, rxfifo := s.rxTick.rxfifo } := by
  unfold State.rxTick
  split <;> rfl

theorem clearTxFifo_frame (s : State) :
    s.clearTxFifo = { s with txfifo := s.clearTxFifo.txfifo, txclrPending := s.clearTxFifo.txclrPending } := by
  unfold State.clearTxFifo
  split <;> rfl

theorem clearRxFifo_frame (s : State) :
    s.clearRxFifo = { s with rxfifo := s.clearRxFifo.rxfifo, rxclrPending := s.clearRxFifo.rxclrPending } := by
  unfold State.clearRxFifo
  split <;> rfl

theorem startCall_frame (s : State) (p : ProcId) (op : PseudoOp) :
    s.startCall p op = { s with call := (s.startCall p op).call } := by
  unfold State.startCall
  split
  · rfl
  · split <;> rfl

/-- In a block that is ready and stays ready the reset event and teardown do nothing. -/
theorem resetEvent_ready {s : State} (h : s.power = .ready) : s.resetEvent = s := by simp [State.resetEvent, h]

theorem teardownEvent_ready {s : State} (ht : s.teardownEvent.power = .ready) :
    s.teardownEvent = s := by
  unfold State.teardownEvent at ht ⊢
  split at ht
  · cases ht
  · next hc => simp [hc]

/-- What a move of a ready block that stays ready can be. -/
theorem move_ready {m : Move} {s t : State} (hs : s.power = .ready) (ht : t.power = .ready)
    (h : s.move m = .next t) :
    (∃ p r, m = .issue p r ∧ s.issue p r = .next t) ∨
    (m = .host ∧ s.hostStep = .next t) ∨
    (m = .engine ∧ t = s.engineStep) ∨
    (m = .txTick ∧ t = s.txTick) ∨
    (m = .rxTick ∧ t = s.rxTick) ∨
    (m = .clearTx ∧ t = s.clearTxFifo) ∨
    (m = .clearRx ∧ t = s.clearRxFifo) ∨
    (m = .clockUp ∧ t = s.setClock true) ∨
    (m = .clockDown ∧ t = s.setClock false) ∨
    ((m = .resetEvent ∨ m = .teardown) ∧ t = s) ∨
    (∃ p op, m = .beginCall p op ∧ t = s.startCall p op) ∨
    (m = .call ∧ s.callStep = .next t) := by
  have hl : s.live = true := by simp [State.live, hs]
  cases m
  case issue p r => exact .inl ⟨p, r, rfl, h⟩
  all_goals simp only [State.move, hl, if_true, Host.Outcome.next.injEq] at h
  case host => simp [h]
  case engine => simp [h]
  case txTick => simp [h]
  case rxTick => simp [h]
  case clearTx => simp [h]
  case clearRx => simp [h]
  case clockUp => simp [h]
  case clockDown => simp [h]
  case resetEvent => rw [resetEvent_ready hs] at h; simp [h]
  case teardown =>
    rw [← h] at ht
    rw [teardownEvent_ready ht] at h
    simp [h]
  case beginCall p op => simp [h]
  case call => simp [h]

/-- Every move keeps the parameters (R10). -/
theorem move_cfg {m : Move} {s t : State} (h : s.move m = .next t) : t.cfg = s.cfg := by
  cases m
  case issue p r => rw [issue_frame h]; rfl
  case call => rw [callStep_frame h]; rfl
  case host =>
    simp only [State.move] at h
    split at h
    · rw [hostStep_frame h]; rfl
    · cases h; rfl
  all_goals (simp only [State.move, Host.Outcome.next.injEq] at h; subst h)
  case engine => split; · rw [engineStep_frame]
                 · rfl
  case txTick => rw [txTick_frame]
  case rxTick => rw [rxTick_frame]
  case clearTx => rw [clearTxFifo_frame]
  case clearRx => rw [clearRxFifo_frame]
  case clockUp => rfl
  case clockDown => rfl
  case resetEvent =>
    unfold State.resetEvent
    split
    · unfold State.initBlock
      split <;> rfl
    · rfl
  case teardown =>
    unfold State.teardownEvent
    split <;> rfl
  case beginCall p op => rw [startCall_frame]

end Sys2Proof.Laws
end

