-- ==== Sys2Proof/Laws/PerInstr.lean ====
section
/-! SUPPORT. A statement made per instruction: what the table row of an instruction fixes of its encoding (R62, R63,
R64, R71). -/

namespace Sys2Proof.Laws.HeaderInTable

open Sys2Proof

/-- The class column of R62: 0 to 3 for the entry points, 4 for the nine commands. -/
def rowClass : Instr → Nat
  | .openSession => 0
  | .closeSession => 1
  | .read _ => 2
  | .write _ => 3
  | .getTxSpace => 4
  | .getRxCount => 4
  | .clrTxFifo => 4
  | .clrRxFifo => 4
  | .setEn _ => 4
  | .setTxEn _ => 4
  | .setRxEn _ => 4
  | .clrTxRing => 4
  | .clrRxRing => 4

/-- The code column of R63; 0 where the class is not 4 (R61). -/
def rowCode : Instr → Nat
  | .openSession => 0
  | .closeSession => 0
  | .read _ => 0
  | .write _ => 0
  | .getTxSpace => 0
  | .getRxCount => 1
  | .clrTxFifo => 2
  | .clrRxFifo => 3
  | .setEn _ => 4
  | .setTxEn _ => 5
  | .setRxEn _ => 6
  | .clrTxRing => 7
  | .clrRxRing => 8

/-- The header of `i`'s encoding has the class and code of `i`'s row, and the argument word of a well-formed
instruction counts the payload of a `WRITE`; no other instruction has a payload. -/
def Statement (i : Instr) : Prop :=
  (headerClass (encode i).hdr).toNat = rowClass i ∧ (headerCode (encode i).hdr).toNat = rowCode i ∧
  (i.wellFormed = true → rowClass i = 3 → (encode i).arg.toNat = (encode i).payload.length) ∧
  (rowClass i ≠ 3 → (encode i).payload = [])

/-- The row of every instruction, in one case analysis. -/
theorem row (i : Instr) : Statement i := by
  cases i
  case write payload =>
    refine ⟨by simp [encode, headerClass, rowClass], by simp [encode, headerCode, rowCode], fun h _ => ?_,
      fun h => absurd rfl h⟩
    have hl : payload.length < 4294967296 := of_decide_eq_true h
    simpa [encode] using hl
  all_goals
    exact ⟨by simp [encode, plainRequest, headerClass, rowClass], by simp [encode, plainRequest, headerCode, rowCode],
      fun _ h => absurd h (by simp [rowClass]), fun _ => rfl⟩

theorem openSession : Statement .openSession := row _

theorem closeSession : Statement .closeSession := row _

theorem read (maxBytes : Word) : Statement (.read maxBytes) := row _

theorem write (payload : List Byte) : Statement (.write payload) := row _

theorem getTxSpace : Statement .getTxSpace := row _

theorem getRxCount : Statement .getRxCount := row _

theorem clrTxFifo : Statement .clrTxFifo := row _

theorem clrRxFifo : Statement .clrRxFifo := row _

theorem setEn (arg : Word) : Statement (.setEn arg) := row _

theorem setTxEn (arg : Word) : Statement (.setTxEn arg) := row _

theorem setRxEn (arg : Word) : Statement (.setRxEn arg) := row _

theorem clrTxRing : Statement .clrTxRing := row _

theorem clrRxRing : Statement .clrRxRing := row _

end Sys2Proof.Laws.HeaderInTable
end

