-- ==== Sys2Proof/Laws/Reset.lean ====
section
/-! SUPPORT. The reset state (R32): rule R21 applied to the stored values gives `State.resetWith`, and the ring storage
right after reset is in canonical form. -/

namespace Sys2Proof.Laws

open Sys2Proof.Machine

/-- `State.resetWith c` is the stored state of the reset event followed by the latches (R32), for every configuration
whose ready levels are at least 1 (R5). -/
theorem resetStored_settle {c : Config} (htx : 1 ≤ c.txReadyLevel) (hrx : 1 ≤ c.rxReadyLevel) :
    (State.resetStored c).settle = State.resetWith c := by
  have h1 : (State.resetStored c).latchedTxw = true := by
    have : 0 < c.txReadyLevel := htx
    simp [State.latchedTxw, State.resetStored, State.live, State.txw, this]
  have h2 : (State.resetStored c).latchedRxr = false := by
    have : ¬ c.rxReadyLevel ≤ 0 := by omega
    simp [State.latchedRxr, State.resetStored, State.live, State.rxr]
    omega
  have h3 : (State.resetStored c).risingEdge = false := by simp [State.risingEdge, State.resetStored]
  simp only [State.settle, h1, h2, h3]
  rfl

/-- No slot of a ring is listed right after reset, which is the canonical form (R18, log 13). -/
theorem reset_storage_wf (c : Config) :
    (State.resetWith c).txring.slots.wf = true ∧ (State.resetWith c).rxring.slots.wf = true :=
  ⟨rfl, rfl⟩

/-- `init` and `clear` keep the storage, so also its form (R100, R105). -/
theorem init_slots (r : Ring) : r.init.slots = r.slots := rfl

theorem clear_slots (r : Ring) : r.clear.slots = r.slots := rfl

/-- `tryWrite` keeps the canonical form, whatever the indices are (R102). -/
theorem tryWrite_wf {n : Nat} {r r' : Ring} {sample : Byte} (hr : r.slots.wf = true)
    (h : r.tryWrite n sample = some r') : r'.slots.wf = true := by
  rcases tryWrite_cases n r sample with ⟨_, e⟩ | ⟨_, e⟩ <;> rw [e] at h
  · cases h
  · cases h
    exact write_wf hr

/-- `tryRead` leaves the storage as it is (R101). -/
theorem tryRead_slots {n : Nat} {free : Nat → Byte} {r r' : Ring} {sample : Byte}
    (h : r.tryRead n free = some (sample, r')) : r'.slots = r.slots := by
  rcases tryRead_cases n free r with ⟨_, e⟩ | ⟨_, e⟩ <;> rw [e] at h <;> cases h
  rfl

end Sys2Proof.Laws
end

