-- ==== Sys2Proof/Laws/Stream.lean ====
section
/-! SUPPORT. Said once: what a step of an operation in flight can do (R27, R132, R133), a step whose result the
latches leave alone, and an arrival on the line (R29, R93). -/

namespace Sys2Proof.Laws

open Sys2Proof.Machine

theorem act_host {s : State} (h : s.power = .ready) : s.act .host = s.hostStep := by
  simp [State.act, State.move, State.live, h]

theorem hostStep_read {s : State} {p : ProcId} {w : Nat} {got : List Byte}
    (h : s.hostop = some ⟨p, .read w got⟩) : s.hostStep = .next (s.readIter p w got) := by
  simp [State.hostStep, h]

theorem hostStep_write {s : State} {p : ProcId} {payload : List Byte} {k : Nat}
    (h : s.hostop = some ⟨p, .write payload k⟩) : s.hostStep = .next (s.writeIter p payload k) := by
  simp [State.hostStep, h]

theorem hostStep_clrTx {s : State} {p : ProcId} {next : ClearStep} {saved : Bool}
    (h : s.hostop = some ⟨p, .clrTx next saved⟩) : s.hostStep = s.clearTxStep p next saved := by
  simp [State.hostStep, h]

theorem hostStep_clrRx {s : State} {p : ProcId} {next : ClearStep} {saved : Bool}
    (h : s.hostop = some ⟨p, .clrRx next saved⟩) : s.hostStep = s.clearRxStep p next saved := by
  simp [State.hostStep, h]

/-- One step RD1 of `READ` (R132). -/
theorem readIter_cases (s : State) (p : ProcId) (w : Nat) (got : List Byte) :
    ((w = 0 ∨ s.rxring.head = s.rxring.tail) ∧
      s.readIter p w got =
        { s with hostop := none, responses := s.responses ++ [(p, Response.okBytes got)] }) ∨
    (w ≠ 0 ∧ s.rxring.head ≠ s.rxring.tail ∧
      s.readIter p w got =
        { s with
          rxring := { s.rxring with tail := (s.rxring.tail + 1) % (s.cfg.nRx + 1) }
          hostop := some ⟨p, .read (w - 1) (got ++ [s.rxring.slot s.rxFree s.rxring.tail])⟩ }) := by
  unfold State.readIter
  cases w with
  | zero => exact .inl ⟨.inl rfl, rfl⟩
  | succ w =>
    rcases tryRead_cases s.cfg.nRx s.rxFree s.rxring with ⟨h, e⟩ | ⟨h, e⟩ <;> simp only [e]
    · exact .inl ⟨.inr h, rfl⟩
    · exact .inr ⟨Nat.succ_ne_zero w, h, rfl⟩

/-- One step W1 of `WRITE` (R133). -/
theorem writeIter_cases (s : State) (p : ProcId) (payload : List Byte) (k : Nat) :
    (payload[k]? = none ∧
      s.writeIter p payload k =
        { s with
          hostop := none
          responses := s.responses ++ [(p, Response.okValue (countValue payload.length))] }) ∨
    ∃ sample, payload[k]? = some sample ∧
      (((s.txring.head + 1) % (s.cfg.nTx + 1) = s.txring.tail ∧
        s.writeIter p payload k = { s with hostop := some ⟨p, .write payload (k + 1)⟩ }) ∨
      ((s.txring.head + 1) % (s.cfg.nTx + 1) ≠ s.txring.tail ∧
        s.writeIter p payload k =
          { s with
            txring :=
              { s.txring with
                slots := s.txring.slots.write s.txring.head sample
                head := (s.txring.head + 1) % (s.cfg.nTx + 1) }
            hostop := some ⟨p, .write payload (k + 1)⟩ })) := by
  unfold State.writeIter
  cases payload[k]? with
  | none => exact .inl ⟨rfl, rfl⟩
  | some sample =>
    refine .inr ⟨sample, rfl, ?_⟩
    rcases tryWrite_cases s.cfg.nTx s.txring sample with ⟨h, e⟩ | ⟨h, e⟩ <;> simp only [e]
    · exact .inl ⟨h, rfl⟩
    · exact .inr ⟨h, rfl⟩

/-- A scheduled move whose result is settled is the whole step. -/
theorem step_settled {s t : State} {m : Move} {rest : List Move} (hs : s.sched = m :: rest)
    (ha : { s with sched := rest }.act m = .next t) (ht : t.Settled) : step s = .next t := by
  rw [step_sched hs, ha]
  exact congrArg Host.Outcome.next ht

/-! ### The line (R29, R93) -/

@[simp] theorem arrival_known (b : Byte) (known : List Byte) (e : Option Endless) :
    arrival ⟨b :: known, e⟩ = some b := rfl

@[simp] theorem arrival_endless (e : Endless) :
    arrival ⟨[], some e⟩ = some (Config.freeSample e.stream e.next) := rfl

@[simp] theorem arrival_ended : arrival ⟨[], none⟩ = none := rfl

@[simp] theorem lineAfter_known (b : Byte) (known : List Byte) (e : Option Endless) :
    lineAfter ⟨b :: known, e⟩ = ⟨known, e⟩ := rfl

@[simp] theorem lineAfter_endless (e : Endless) :
    lineAfter ⟨[], some e⟩ = ⟨[], some { e with next := e.next + 1 }⟩ := rfl

/-- An endless line never ends (R4). -/
theorem arrival_isSome_of_endless {l : Line} (h : l.endless.isSome = true) :
    (arrival l).isSome = true ∧ (lineAfter l).endless.isSome = true := by
  obtain ⟨known, endless⟩ := l
  cases known <;> cases endless <;> simp_all

/-- `RxTick` (R93): nothing, or one arrival that is stored or lost. -/
theorem rxTick_cases (s : State) :
    (s.rxTickEnabled = false ∧ s.rxTick = s) ∨
    ∃ b, arrival s.lineInRest = some b ∧
      ((s.rxAccepts = true ∧
          s.rxTick = { s with lineInRest := lineAfter s.lineInRest, rxfifo := s.rxfifo ++ [fifoWordOf b] }) ∨
        (s.rxAccepts = false ∧ s.rxTick = { s with lineInRest := lineAfter s.lineInRest })) := by
  unfold State.rxTick
  cases he : s.rxTickEnabled
  · exact .inl ⟨rfl, rfl⟩
  · simp only [State.rxTickEnabled, Bool.and_eq_true] at he
    obtain ⟨b, hb⟩ := Option.isSome_iff_exists.1 he.2
    refine .inr ⟨b, hb, ?_⟩
    cases ha : s.rxAccepts
    · exact .inr ⟨rfl, rfl⟩
    · exact .inl ⟨rfl, by rw [hb]; rfl⟩

end Sys2Proof.Laws
end

