-- ==== Sys2Proof/Tests/Slice0.lean ====
section
/-! SUPPORT. Tests on fixed values, each expected result taken from a table or a vector of the spec (its number is in
the comment), the smoke test of WellFormed, and for every obligation with hypotheses a witness that meets them. -/

namespace Sys2Proof.Tests

open Sys2Proof Sys2Proof.Machine

/-! ### Small configurations and states -/

/-- The small configuration `SC` of 95_test_vectors.md. -/
def sc : Config := { nTx := 4, nRx := 4, hwFifoDepth := 2, threshold := 3 }

/-- Right after reset in `SC`: the session is closed. -/
def closed : State := State.resetWith sc

/-- `SC`, the session open for process 0 and the engine idle. -/
def opened : State :=
  { closed with inUse := true, holder := some 0, isrRegistered := true, usageRef := 1, svcPending := true }

/-- A ring `(head, tail)` whose slots from 0 on hold the given samples. -/
def ringOf (head tail : Nat) (samples : List Byte) : Ring :=
  ⟨(List.range samples.length).zip samples, head, tail⟩

/-- `opened` with three received samples, none of them in the FIFO. -/
def received : State := { opened with rxring := ringOf 3 0 [0x11#8, 0x22#8, 0x33#8] }

/-- `opened` with a full transmit ring that wraps: `(2, 3, [1, 2, 3, 4])` (P2, after its step 5). -/
def txFull : State := { opened with txring := ringOf 2 3 [3#8, 4#8, 0x0C#8, 1#8, 2#8] }

/-- `opened` with a full receive ring `(4, 0, [a, b, c, d])`. -/
def rxFull : State := { opened with rxring := ringOf 4 0 [0xA#8, 0xB#8, 0xC#8, 0xD#8] }

/-- The state of a `next` outcome, or a default that no test passes with. -/
def after (o : Host.Outcome State Fault Refusal) : State :=
  match o with
  | .next t => t
  | .fault _ => State.blockOff sc
  | .refused _ => State.blockOff sc

/-- The engine is at a phase of a running invocation of `s`. -/
def inPhase (p : Phase) (i : Nat) (s : State) : State :=
  { s with inService := true, svcPending := false, eng := ⟨p, i⟩ }

/-! ### WellFormed: the one check refuses an ill-formed term -/

/-- A payload of 2^32 bytes has no encoding (R71). -/
theorem test_write_too_long : (Instr.write (List.replicate 4294967296 0#8)).wellFormed = false := by
  simp only [Instr.wellFormed, payloadFits, List.length_replicate]
  decide

/-- One byte less has one. -/
theorem test_write_longest : (Instr.write (List.replicate 4294967295 0#8)).wellFormed = true := by
  simp only [Instr.wellFormed, payloadFits, List.length_replicate]
  decide

/-! ### Decoding: words written out from R61 to R63, V1 to V12 -/

/-- `OPEN`, with `arg` ignored (V1, V2). -/
theorem test_decode_open : decode ⟨0b0000_0000000000000000000000000000#32, 0xFFFFFFFF#32, []⟩ = .ok .openSession := by
  decide

/-- `CLOSE` (V3). -/
theorem test_decode_close : decode ⟨0b0001_0000000000000000000000000000#32, 0#32, []⟩ = .ok .closeSession := by
  decide

/-- `READ` (V4). -/
theorem test_decode_read : decode ⟨0b0010_0000000000000000000000000000#32, 0xA0#32, []⟩ = .ok (.read 160#32) := by
  decide

/-- `WRITE` (V5). -/
theorem test_decode_write :
    decode ⟨0b0011_0000000000000000000000000000#32, 2#32, [7#8, 0#8]⟩ = .ok (.write [7#8, 0#8]) := by decide

/-- The nine commands (V7). -/
theorem test_decode_getTxSpace : decode ⟨0b0100_0000000000000000000000000000#32, 0#32, []⟩ = .ok .getTxSpace := by
  decide

theorem test_decode_getRxCount : decode ⟨0b0100_0000000000000000000000000001#32, 0#32, []⟩ = .ok .getRxCount := by
  decide

theorem test_decode_clrTxFifo : decode ⟨0b0100_0000000000000000000000000010#32, 0#32, []⟩ = .ok .clrTxFifo := by
  decide

theorem test_decode_clrRxFifo : decode ⟨0b0100_0000000000000000000000000011#32, 0#32, []⟩ = .ok .clrRxFifo := by
  decide

theorem test_decode_setEn : decode ⟨0b0100_0000000000000000000000000100#32, 0#32, []⟩ = .ok (.setEn 0#32) := by
  decide

theorem test_decode_setTxEn : decode ⟨0b0100_0000000000000000000000000101#32, 1#32, []⟩ = .ok (.setTxEn 1#32) := by
  decide

theorem test_decode_setRxEn : decode ⟨0b0100_0000000000000000000000000110#32, 2#32, []⟩ = .ok (.setRxEn 2#32) := by
  decide

theorem test_decode_clrTxRing : decode ⟨0b0100_0000000000000000000000000111#32, 0#32, []⟩ = .ok .clrTxRing := by
  decide

theorem test_decode_clrRxRing : decode ⟨0b0100_0000000000000000000000001000#32, 0#32, []⟩ = .ok .clrRxRing := by
  decide

/-- Reserved requests (V6, V8 to V11). -/
theorem test_decode_illegal :
    decode ⟨0x30000000#32, 3#32, [7#8, 0#8]⟩ = .error .lengthMismatch ∧
    decode ⟨0x40000009#32, 0#32, []⟩ = .error .unrecognizedCommand ∧
    decode ⟨0x4FFFFFFF#32, 1#32, []⟩ = .error .unrecognizedCommand ∧
    decode ⟨0x50000000#32, 0#32, []⟩ = .error .reservedClass ∧
    decode ⟨0xF0000000#32, 0#32, []⟩ = .error .reservedClass ∧
    decode ⟨0x00000001#32, 0#32, []⟩ = .error .nonzeroCode ∧
    decode ⟨0x10000001#32, 0#32, []⟩ = .error .nonzeroCode ∧
    decode ⟨0x20000001#32, 4#32, []⟩ = .error .nonzeroCode := by decide

/-- A sample and a FIFO word (V12). -/
theorem test_sample_words : fifoWordOf 0xFF#8 = 0xFF#32 ∧ sampleOf 0xABCDEF12#32 = 0x12#8 := by decide

/-- Rows of the table, as the host numbers them; operand words are zero. -/
theorem test_table_words :
    decodeTableWord 32 0x00000000 = some .openSession ∧ decodeTableWord 32 0x20000000 = some (.read 0#32) ∧
    decodeTableWord 32 0x30000000 = some (.write []) ∧ decodeTableWord 32 0x40000008 = some .clrRxRing ∧
    decodeTableWord 64 0x00000001_40000005 = some (.setTxEn 1#32) ∧
    decodeTableWord 72 0x07_00000001_30000000 = some (.write [7#8]) ∧ decodeTableWord 32 0x50000000 = none := by
  decide

/-- The first step after reset runs the word it is given: `OPEN` opens, a query answers the capacity. -/
theorem test_fetch_open : (after (step (State.reset.withFetchWord 32 0x00000000))).inUse = true := by decide

theorem test_fetch_query :
    (after (step (State.reset.withFetchWord 32 0x40000000))).responses = [(0, ⟨.ok, 200#32, []⟩)] := by decide

/-! ### One step of each operation (V50 to V69) -/

/-- V50. -/
theorem test_open_closed :
    let t := after (exec .openSession { closed with txUnderflow := 5, rxOverflow := 9 })
    t.inUse = true ∧ t.isrRegistered = true ∧ t.usageRef = 1 ∧ t.txUnderflow = 0 ∧ t.rxOverflow = 0 ∧
      t.svcPending = true := by decide

/-- V51. -/
theorem test_open_busy : exec .openSession { opened with txUnderflow := 2, caller := 7 } =
    .next { opened with txUnderflow := 2, caller := 7, responses := [(7, ⟨.busy, 0#32, []⟩)] } := by rfl

/-- Example of R131. -/
theorem test_close :
    let t := after (exec .closeSession { opened with rxOverflow := 9 })
    t.inUse = false ∧ t.isrRegistered = false ∧ t.usageRef = 0 ∧ t.rxOverflow = 0 ∧ t.holder = none := by decide

/-- V52: held while the routine runs. -/
theorem test_close_held :
    let t := after (exec .closeSession (inPhase .s4 0 opened))
    t.inUse = true ∧ t.responses = [] ∧ t.held = some 0 := by decide

/-- V53. -/
theorem test_read_zero : exec (.read 0#32) received =
    .next { received with responses := [(0, ⟨.ok, 0#32, []⟩)] } := by rfl

/-- The first RD1 of V54. -/
theorem test_read_first :
    let t := after (exec (.read 8#32) received)
    t.rxring.tail = 1 ∧ t.hostop = some ⟨0, .read 7 [0x11#8]⟩ ∧ t.responses = [] := by decide

/-- V57. -/
theorem test_write_full : exec (.write []) txFull =
    .next { txFull with responses := [(0, ⟨.wouldBlock, 0#32, []⟩)] } := by rfl

/-- V56, its last step. -/
theorem test_write_empty_payload :
    (after { opened with hostop := some ⟨0, .write [] 0⟩ }.hostStep).responses = [(0, ⟨.ok, 0#32, []⟩)] := by decide

/-- V60. -/
theorem test_getTxSpace : (after (exec .getTxSpace { opened with txring := ringOf 1 0 [5#8] })).responses =
    [(0, ⟨.ok, 3#32, []⟩)] := by decide

/-- V61. -/
theorem test_getRxCount : (after (exec .getRxCount received)).responses = [(0, ⟨.ok, 3#32, []⟩)] := by decide

/-- V62, step F1. -/
theorem test_clrTxFifo :
    let t := after (exec .clrTxFifo { opened with csTxon := true })
    t.csTxon = false ∧ t.hostop = some ⟨0, .clrTx .f2 true⟩ ∧ t.responses = [] := by decide

/-- V64: F3 holds while the clear is pending. -/
theorem test_clrTxFifo_holds :
    let s := { opened with hostop := some ⟨0, .clrTx .f3 false⟩, txclrPending := true }
    s.hostStep = .next s := by rfl

/-- V63, step F1. -/
theorem test_clrRxFifo :
    let t := after (exec .clrRxFifo { opened with rxfifo := [0x11#32] })
    t.csRxon = false ∧ t.hostop = some ⟨0, .clrRx .f2 false⟩ ∧ t.rxfifo = [0x11#32] := by decide

/-- V63, step F4: the saved enable was 0. -/
theorem test_clrRxFifo_last :
    let t := after { opened with hostop := some ⟨0, .clrRx .f4 false⟩ }.hostStep
    t.csRxon = false ∧ t.hostop = none ∧ t.responses = [(0, ⟨.ok, 0#32, []⟩)] := by decide

/-- V65. -/
theorem test_setEn : (after (exec (.setEn 0#32) opened)).csEn = false := by decide

/-- V66. -/
theorem test_setTxEn : (after (exec (.setTxEn 1#32) opened)).csTxon = true := by decide

theorem test_setTxEn_illegal : exec (.setTxEn 2#32) { opened with csTxon := true } =
    .next { opened with csTxon := true, responses := [(0, ⟨.invalidArgument, 0#32, []⟩)] } := by rfl

/-- V67. -/
theorem test_setRxEn : (after (exec (.setRxEn 0#32) { opened with csRxon := true })).csRxon = false := by decide

theorem test_setRxEn_illegal : (after (exec (.setRxEn 0xFFFFFFFF#32) { opened with csRxon := true })).csRxon = true := by
  decide

/-- V68. -/
theorem test_clrTxRing :
    let t := after (exec .clrTxRing txFull)
    t.txring.head = 0 ∧ t.txring.tail = 0 ∧ t.txring.slots = txFull.txring.slots := by decide

/-- V69. -/
theorem test_clrRxRing :
    let t := after (exec .clrRxRing received)
    t.rxring.head = 0 ∧ t.rxring.tail = 0 ∧ t.responses = [(0, ⟨.ok, 0#32, []⟩)] := by decide

/-! ### Registers, FIFOs, serial side (V13 to V26) -/

/-- V13. -/
theorem test_reset_registers :
    (closed.readRegister .cs).1 = 0x000A0001#32 ∧ (closed.readRegister .inten).1 = 3#32 ∧
    (closed.readRegister .intstc).1 = 1#32 := by decide

/-- V14. -/
theorem test_cs_word :
    (State.csWord { State.reset with csRxon := true, csTxon := true, txfifo := [5#32], rxfifo := [0x11#32] }) =
      0x001C0007#32 := by decide

/-- V15, V16. -/
theorem test_cs_write :
    (closed.writeRegister .cs 0xFFFFFFF9#32).csWord = 0x000A0019#32 ∧
    ((closed.writeRegister .cs 0xFFFFFFF9#32).writeRegister .cs 0#32).csWord = 0x000A0018#32 := by decide

/-- V17. -/
theorem test_inten_write : (closed.writeRegister .inten 0xFFFFFFFE#32).intenWord = 2#32 := by decide

/-- V18, V19: writing `INTSTC`, then the latches. -/
theorem test_intstc_write :
    let s := { opened with intstcRxr := true, txfifo := [0#32], rxfifo := [0x11#32], svcPending := false, inService := true }
    let t := (s.writeRegister .intstc 1#32).settle
    let u := (t.writeRegister .intstc 2#32).settle
    t.intstcWord = 2#32 ∧ t.svcPending = false ∧ u.intstcWord = 2#32 ∧ u.svcPending = true := by decide

/-- V20. -/
theorem test_fifo_write_full : (State.fifoWrite 3#32 { opened with txfifo := [1#32, 2#32] }).txfifo = [1#32, 2#32] := by
  decide

/-- V23. -/
theorem test_clear_unit :
    let s := { opened with txfifo := [0#32, 5#32], txclrPending := true }
    s.clearTxFifo = s ∧ ({ s with clockRunning := true }.clearTxFifo).txfifo = [] := by decide

/-- V24. -/
theorem test_txTick_disabled :
    let s := { opened with clockRunning := true, csEn := false, csTxon := true, txfifo := [7#32] }
    s.txTick = s := by decide

/-- V25. -/
theorem test_rxTick_lost :
    let t := State.rxTick { opened with clockRunning := true, lineInRest := ⟨[0x11#8, 0x22#8], none⟩ }
    t.lineInRest = ⟨[0x22#8], none⟩ ∧ t.rxfifo = [] := by decide

/-- An infinite `line_in` (R4) never ends: its next sample arrives, whatever it is. -/
theorem test_rxTick_endless :
    let t := State.rxTick { opened with clockRunning := true, csRxon := true, lineInRest := ⟨[], some ⟨0, 7⟩⟩ }
    t.lineInRest = ⟨[], some ⟨0, 8⟩⟩ ∧ t.rxfifo.length = 1 := by decide

/-- V80: a `TxTick` that empties the FIFO, with its latches. -/
theorem test_txTick_edge :
    let s : State :=
      { opened with
        svcPending := false
        intstcTxw := false
        txfifo := [0#32]
        csTxon := true
        clockRunning := true
        sched := [.txTick] }
    (after (step s)).intstcTxw = true ∧ (after (step s)).svcPending = true := by decide

/-! ### Rings (V27 to V34) -/

/-- V27, the failing write; V28, `itemCount` across the end; V30. -/
theorem test_ring_counts :
    (ringOf 3 0 [1#8, 2#8, 3#8]).tryWrite 3 4#8 = none ∧ Ring.itemCount 3 ⟨[], 0, 1⟩ = 3 ∧
    Ring.itemCount 3 ⟨[], 1, 3⟩ = 2 ∧ Ring.remainingSpace 3 ⟨[], 1, 3⟩ = 1 := by decide

/-- V28. -/
theorem test_ring_wrap :
    Ring.tryWrite 3 4#8 (ringOf 3 1 [1#8, 2#8, 3#8]) = some (ringOf 0 1 [1#8, 2#8, 3#8, 4#8]) := by decide

/-- V32. -/
theorem test_ring_empty : Ring.isEmpty ⟨[], 2, 2⟩ = true ∧ Ring.isFull 3 ⟨[], 2, 2⟩ = false := by decide

/-! ### Transfer Engine, one step each (V36 to V49, V79) -/

/-- V36: the batch limit leaves the loop. -/
theorem test_batch_limit :
    let s := { inPhase .s2loop 2 { txFull with cfg := { sc with batchLimit := 2 } } with txfifo := [] }
    s.s2loop.eng = ⟨.s3test, 0⟩ ∧ s.s2loop.txring = s.txring := by decide

/-- V37: the live condition opens the loop; V38: it keeps it shut. -/
theorem test_s2test :
    (inPhase .s2test 0 opened).s2test.eng = ⟨.s2loop, 0⟩ ∧
    (inPhase .s2test 0 { opened with txfifo := [0#32] }).s2test.eng = ⟨.s3test, 0⟩ := by decide

/-- V39: an empty pull below the threshold. -/
theorem test_underflow :
    let t := (inPhase .s2loop 1 { opened with txfifo := [7#32] }).s2loop
    t.txUnderflow = 1 ∧ t.txfifo = [7#32] ∧ t.eng = ⟨.s3test, 0⟩ := by decide

/-- V40. -/
theorem test_tx_trip :
    let t := (inPhase .s2loop 0 { opened with csTxon := true, txUnderflow := 2 }).s2loop
    t.csTxon = false ∧ t.txfifo = [0#32, 0#32] ∧ t.txUnderflow = 0 := by decide

/-- V42: the second zero is dropped. -/
theorem test_tx_trip_full :
    (inPhase .s2loop 0 { opened with txfifo := [9#32], txUnderflow := 2 }).s2loop.txfifo = [9#32, 0#32] := by decide

/-- V45: a full ring loses the sample. -/
theorem test_overflow :
    let t := (inPhase .s3loop 0 { rxFull with rxfifo := [0x33#32] }).s3loop
    t.rxfifo = [] ∧ t.rxOverflow = 1 ∧ t.rxring = rxFull.rxring ∧ t.eng = ⟨.s4, 0⟩ := by decide

/-- V48: the trip discards two more words. -/
theorem test_rx_trip :
    let t := (inPhase .s3loop 0 { rxFull with rxfifo := [1#32, 2#32, 3#32, 4#32, 5#32], rxOverflow := 2, csRxon := true }).s3loop
    t.rxfifo = [4#32, 5#32] ∧ t.rxOverflow = 0 ∧ t.csRxon = false := by decide

/-- V79, step S4: a latch that is set again is a new edge. -/
theorem test_acknowledge :
    let s := { inPhase .s4 0 opened with intstcRxr := true, txfifo := [0#32, 0#32], rxfifo := [0x11#32], sched := [.engine] }
    let t := after (step s)
    t.intstcWord = 2#32 ∧ t.svcPending = true ∧ t.eng = ⟨.s5, 0⟩ := by decide

/-! ### Reset and teardown (V81 to V83) -/

/-- V81. -/
theorem test_reset_failed :
    let t := (State.blockOff { sc with initOk := false }).resetEvent
    t.power = .failed ∧ t.initReport = some .hardwareFault := by decide

/-- V82. -/
theorem test_teardown_in_use : opened.teardownEvent = opened := by decide

/-- V83. -/
theorem test_teardown_reset :
    closed.teardownEvent.power = .off ∧ (closed.teardownEvent.resetEvent.settle).csWord = 0x000A0001#32 := by decide

/-! ### Witnesses: for every obligation with hypotheses, a state and operands that meet them together, clause by clause -/

/-- One well-formed instruction of each constructor, a `WRITE` at both ends of its range. -/
def eachInstr : List Instr :=
  [.openSession, .closeSession, .read 0#32, .read 0xFFFFFFFF#32, .write [], .getTxSpace, .getRxCount, .clrTxFifo,
   .clrRxFifo, .setEn 1#32, .setTxEn 2#32, .setRxEn 0xFFFFFFFF#32, .clrTxRing, .clrRxRing]

theorem witness_DecodeEncodeRoundTrip : eachInstr.all Instr.wellFormed = true := by decide

theorem witness_TextAssemblesBack : (eachInstr ++ [Instr.write [0#8, 255#8]]).all Instr.wellFormed = true := by decide

/-- A header of each row, and of each reason at the ends of its range. -/
theorem witness_DecoderIsTotal :
    ([0x00000000#32, 0x10000000#32, 0x20000000#32, 0x30000000#32, 0x40000000#32, 0x40000008#32, 0x40000009#32,
      0x4FFFFFFF#32, 0x50000000#32, 0xFFFFFFFF#32, 0x00000001#32, 0x3FFFFFFF#32] : List Word).map
      (fun h => (h.toNat / 2 ^ 28, h.toNat % 2 ^ 28)) =
      [(0, 0), (1, 0), (2, 0), (3, 0), (4, 0), (4, 8), (4, 9), (4, 0xFFFFFFF), (5, 0), (15, 0xFFFFFFF), (0, 1),
       (3, 0xFFFFFFF)] ∧
    (2#32).toNat = [7#8, 0#8].length ∧ (3#32).toNat ≠ [7#8, 0#8].length := by decide

theorem witness_StepRunsDecodedRequest :
    { opened with sched := [.issue 0 ⟨0x40000000#32, 5#32, []⟩] }.sched =
      .issue 0 ⟨0x40000000#32, 5#32, []⟩ :: [] ∧
    decode ⟨0x40000000#32, 5#32, []⟩ = .ok .getTxSpace := by decide

/-- Both conditions at their boundary, both enables, and a line that is down before the latches. -/
theorem witness_LatchesFollowEveryStep :
    let s := { opened with intstcTxw := false, rxfifo := [1#32], sched := [.clockUp] }
    let t := { s with sched := [], clockRunning := true }
    s.afterChoice.act s.nextMove = .next t ∧ t.power = .ready ∧
      (t.txfifo.length < t.cfg.txReadyLevel ∧ t.intenTxw = true) ∧
      (t.cfg.rxReadyLevel = t.rxfifo.length ∧ t.intenRxr = true) ∧ t.isrRegistered = true ∧ t.irqLine = false :=
  ⟨rfl, by decide⟩

theorem witness_OnlyTheHolderMayIssue :
    Instr.closeSession ≠ .openSession ∧ (closed.power = .ready ∧ closed.inUse = false) ∧
    (let s := { opened with caller := 1 }
     s.power = .ready ∧ s.inUse = true ∧ s.holder ≠ some s.caller) ∧
    (let s := { opened with hostop := some ⟨0, .write [1#8] 0⟩ }
     s.power = .ready ∧ s.inUse = true ∧ s.holder = some s.caller ∧ s.hostop ≠ none) ∧
    (let s := { opened with held := some 0 }
     s.power = .ready ∧ s.inUse = true ∧ s.holder = some s.caller ∧ s.held ≠ none) := by decide

theorem witness_IllegalRequestAnswered :
    opened.Issuable ∧ decode ⟨0x40000009#32, 0#32, []⟩ = .error .unrecognizedCommand := by decide

theorem witness_UnreadyBlockRunsNoOperation :
    { closed with power := .failed }.power = .failed ∧ (State.blockOff sc).power = .off := by decide

theorem witness_OpenAnswers :
    (closed.power = .ready ∧ closed.inUse = false) ∧ (opened.power = .ready ∧ opened.inUse = true) := by decide

theorem witness_CloseCompletesOutsideService :
    (opened.Issuable ∧ opened.inService = false) ∧
    ((inPhase .s4 0 opened).Issuable ∧ (inPhase .s4 0 opened).inService = true) ∧
    (let s := { inPhase .s4 0 opened with held := some 0 }
     s.power = .ready ∧ s.hostop = none ∧ s.held = some 0 ∧ s.inService = true) ∧
    (let s := { opened with held := some 0 }
     s.power = .ready ∧ s.hostop = none ∧ s.held = some 0 ∧ s.inService = false) := by decide

/-- An empty ring, a request for nothing, and a request for one sample of a ring that holds one. -/
theorem witness_ReadStartsAndContinues :
    (opened.Issuable ∧ opened.rxring.head = opened.rxring.tail) ∧
    (let s := { opened with rxring := ringOf 0 4 [0#8, 0#8, 0#8, 0#8, 9#8] }
     s.Issuable ∧ (1#32 : Word) ≠ 0#32 ∧ s.rxring.head ≠ s.rxring.tail) ∧
    (let s := { received with hostop := some ⟨0, .read 0 [5#8]⟩ }
     s.power = .ready ∧ s.hostop = some ⟨0, .read 0 [5#8]⟩) ∧
    (let s := { opened with hostop := some ⟨0, .read 1 [5#8]⟩ }
     s.power = .ready ∧ s.hostop = some ⟨0, .read 1 [5#8]⟩ ∧ s.rxring.head = s.rxring.tail) ∧
    (let s := { received with hostop := some ⟨0, .read 1 [5#8]⟩ }
     s.power = .ready ∧ s.hostop = some ⟨0, .read 1 [5#8]⟩ ∧ 1 ≠ 0 ∧ s.rxring.head ≠ s.rxring.tail) := by decide

theorem witness_ReadReturnsOldestSamples :
    received.Issuable ∧ received.Settled ∧ received.sched = [] ∧ received.rxring.Ok received.cfg.nRx ∧
      3 = min (8#32 : Word).toNat (received.rxring.itemCount received.cfg.nRx) := by decide

/-- A full ring, and a ring with one free place. -/
theorem witness_WriteStarts :
    (txFull.Issuable ∧ txFull.txring.remainingSpace txFull.cfg.nTx = 0) ∧
    (let s := { txFull with txring := { txFull.txring with tail := 4 } }
     s.Issuable ∧ s.txring.remainingSpace s.cfg.nTx = 1) := by decide

theorem witness_WriteStoresOneSampleOrResponds :
    (let s := { txFull with hostop := some ⟨0, .write [7#8] 0⟩ }
     s.power = .ready ∧ s.hostop = some ⟨0, .write [7#8] 0⟩ ∧ ([7#8] : List Byte)[0]? = some 7#8 ∧
       (s.txring.head + 1) % (s.cfg.nTx + 1) = s.txring.tail) ∧
    (let s := { opened with hostop := some ⟨0, .write [1#8, 7#8] 1⟩, txring := ringOf 4 2 [0#8, 0#8, 5#8, 1#8] }
     s.power = .ready ∧ s.hostop = some ⟨0, .write [1#8, 7#8] 1⟩ ∧ ([1#8, 7#8] : List Byte)[1]? = some 7#8 ∧
       (s.txring.head + 1) % (s.cfg.nTx + 1) ≠ s.txring.tail) ∧
    (let s := { opened with hostop := some ⟨0, .write [1#8, 7#8] 2⟩ }
     s.power = .ready ∧ s.hostop = some ⟨0, .write [1#8, 7#8] [1#8, 7#8].length⟩) := by decide

/-- More bytes than places (V58). -/
theorem witness_WriteAppendsInOrder :
    let s := { opened with txring := ringOf 2 0 [0xA#8, 0xB#8] }
    s.Issuable ∧ s.Settled ∧ s.sched = [] ∧ s.txring.Ok s.cfg.nTx ∧ [7#8, 8#8, 9#8].length < 4294967296 ∧
      s.txring.remainingSpace s.cfg.nTx = 2 := by decide

theorem witness_QueriesAnswerCounts : received.Issuable ∧ received.cfg.wf := by decide

theorem witness_EnableCommandsSetTheirField :
    opened.Issuable ∧ (0#32 = 0#32 ∨ 0#32 = 1#32) ∧ (1#32 = 0#32 ∨ 1#32 = 1#32) ∧
      ((2#32 : Word) ≠ 0#32 ∧ (2#32 : Word) ≠ 1#32) := by decide

theorem witness_RingClearsResetIndices : txFull.Issuable ∧ received.Issuable := by decide

theorem witness_FifoClearDisablesFirst : { opened with csTxon := true, csRxon := true }.Issuable := by decide

theorem witness_TxFifoClearCompletes :
    let s := { opened with clockRunning := true, csTxon := true, txfifo := [0#32, 5#32] }
    s.Issuable ∧ s.Settled ∧ s.sched = [] ∧ s.clockRunning = true := by decide

theorem witness_RxFifoClearCompletes :
    let s := { opened with clockRunning := true, csRxon := true, rxfifo := [0x11#32], intstcRxr := true }
    s.Issuable ∧ s.Settled ∧ s.sched = [] ∧ s.clockRunning = true := by decide

/-- The hypotheses of the invariant, of the states that follow it. -/
theorem inv_opened : opened.Inv :=
  ⟨by decide, by decide, by decide, by decide, by decide, by decide, by decide⟩

theorem inv_txFull : txFull.Inv :=
  ⟨by decide, by decide, by decide, by decide, by decide, by decide, by decide⟩

/-- `CLR_TX_FIFO` at F3 with the clock down. -/
def clearing : State := { opened with hostop := some ⟨0, .clrTx .f3 true⟩, txclrPending := true, txfifo := [5#32] }

theorem inv_clearing : clearing.Inv :=
  ⟨by decide, by decide, by decide, by decide, by decide, by decide, by decide⟩

/-- `CLR_RX_FIFO` at F3 with the clock down. -/
def clearingRx : State :=
  { opened with
    hostop := some ⟨0, .clrRx .f3 true⟩
    rxclrPending := true
    rxfifo := [5#32]
    intstcRxr := true }

theorem inv_clearingRx : clearingRx.Inv :=
  ⟨by decide, by decide, by decide, by decide, by decide, by decide, by decide⟩

/-- A look of the clear, an `OPEN` of the same process (answered `Busy`) and a disabled `ClearTx`; likewise for
`CLR_RX_FIFO`. -/
theorem witness_ClearNeverReturnsWithoutClock :
    (clearing.Inv ∧ (clearing.power = .ready ∧ clearing.clockRunning = false ∧
      clearing.hostop = some ⟨0, .clrTx .f3 true⟩ ∧ clearing.txclrPending = true) ∧
      Move.clockUp ∉ [.host, .issue 0 (encode .openSession), .clearTx] ∧
      clearing.runMoves [.host, .issue 0 (encode .openSession), .clearTx] =
        .next { clearing with responses := [(0, ⟨.busy, 0#32, []⟩)] }) ∧
    (clearingRx.Inv ∧ (clearingRx.power = .ready ∧ clearingRx.clockRunning = false ∧
      clearingRx.hostop = some ⟨0, .clrRx .f3 true⟩ ∧ clearingRx.rxclrPending = true) ∧
      Move.clockUp ∉ [.host, .issue 0 (encode .openSession), .clearRx] ∧
      clearingRx.runMoves [.host, .issue 0 (encode .openSession), .clearRx] =
        .next { clearingRx with responses := [(0, ⟨.busy, 0#32, []⟩)] }) :=
  ⟨⟨inv_clearing, by decide, by decide, rfl⟩, ⟨inv_clearingRx, by decide, by decide, rfl⟩⟩

/-- Each of the four cases at the end of the index range: empty, wrapping read, full, wrapping write. -/
theorem witness_RingPrimitivesFollowTheirRules :
    (1 ≤ 1 ∧ (⟨[], 1, 1⟩ : Ring).head ≤ 1 ∧ (⟨[], 1, 1⟩ : Ring).tail ≤ 1 ∧
      (⟨[], 1, 1⟩ : Ring).head = (⟨[], 1, 1⟩ : Ring).tail) ∧
    (let r := ringOf 0 3 [1#8, 2#8, 3#8, 4#8]
     1 ≤ 3 ∧ r.head ≤ 3 ∧ r.tail ≤ 3 ∧ r.head ≠ r.tail) ∧
    (let r := ringOf 1 0 [5#8]
     1 ≤ 1 ∧ r.head ≤ 1 ∧ r.tail ≤ 1 ∧ (r.head + 1) % (1 + 1) = r.tail) ∧
    (let r := ringOf 3 1 [0#8, 1#8, 2#8]
     1 ≤ 3 ∧ r.head ≤ 3 ∧ r.tail ≤ 3 ∧ (r.head + 1) % (3 + 1) ≠ r.tail) := by decide

/-- The smallest ring, full; a ring about to wrap. -/
theorem witness_TryWriteAppends :
    (Ring.Ok 1 (ringOf 1 0 [5#8]) ∧ Ring.tryWrite 1 6#8 (ringOf 1 0 [5#8]) = none) ∧
    (Ring.Ok 3 (ringOf 3 1 [0#8, 1#8, 2#8]) ∧
      Ring.tryWrite 3 7#8 (ringOf 3 1 [0#8, 1#8, 2#8]) = some (ringOf 0 1 [0#8, 1#8, 2#8, 7#8])) := by decide

theorem witness_TryReadTakesOldest :
    (Ring.Ok 1 ⟨[], 1, 1⟩ ∧ Ring.tryRead 1 (fun _ => 0#8) ⟨[], 1, 1⟩ = none) ∧
    (Ring.Ok 3 (ringOf 0 3 [1#8, 2#8, 3#8, 4#8]) ∧
      Ring.tryRead 3 (fun _ => 0#8) (ringOf 0 3 [1#8, 2#8, 3#8, 4#8]) =
        some (4#8, ringOf 0 0 [1#8, 2#8, 3#8, 4#8])) := by decide

/-- Both ends of the index range: full, empty, and a difference that wraps. -/
theorem witness_RingCountsAgree :
    (1 ≤ 1 ∧ (⟨[], 0, 1⟩ : Ring).head ≤ 1 ∧ (⟨[], 0, 1⟩ : Ring).tail ≤ 1 ∧ Ring.remainingSpace 1 ⟨[], 0, 1⟩ = 0) ∧
    (Ring.remainingSpace 3 ⟨[], 3, 3⟩ = 3) ∧ Ring.itemCount 3 ⟨[], 1, 3⟩ = 2 := by decide

theorem witness_RingRoundTrip :
    1 ≤ 3 ∧ Ring.Ok 3 ⟨[], 2, 2⟩ ∧ (⟨[], 2, 2⟩ : Ring).head = (⟨[], 2, 2⟩ : Ring).tail ∧
      [7#8, 8#8, 9#8].length ≤ 3 := by decide

theorem witness_ResetRegistersRead : sc.wf := by decide

theorem witness_CsWordBits : 5 ∉ [0, 1, 2, 3, 4, 17, 18, 19, 20] ∧ 16 ∉ [0, 1, 2, 3, 4, 17, 18, 19, 20] ∧
    21 ∉ [0, 1, 2, 3, 4, 17, 18, 19, 20] := by decide

/-- A word for an enable field with the other enables up, and one for a clear field. -/
theorem witness_FieldUpdateIsReadModifyWrite :
    (∀ i, i < 5 → (0x3#32 : Word).getLsbD i =
      (if i = CsField.bit .txon then false
       else decide (i < 3) && ({ opened with csRxon := true, csTxon := true }.readRegister .cs).1.getLsbD i)) ∧
    (∀ i, i < 5 → (0x9#32 : Word).getLsbD i =
      (if i = CsField.bit .txclr then true else decide (i < 3) && (opened.readRegister .cs).1.getLsbD i)) := by
  decide

theorem witness_IntstcWriteOneToClear :
    opened.power = .ready ∧ (opened.writeRegister .intstc 1#32).settle = (opened.writeRegister .intstc 1#32).settle ∧
      opened.isrRegistered = true ∧ (1#32 : Word).getLsbD 0 = true ∧ opened.intstcRxr = false := by decide

/-- One place free, none free, one word, no word. -/
theorem witness_FifoAccesses :
    (let s := { opened with txfifo := [1#32] }
     s.txfifo.length < s.cfg.hwFifoDepth) ∧
    (let s := { opened with txfifo := [1#32, 2#32] }
     s.cfg.hwFifoDepth ≤ s.txfifo.length) ∧
    { opened with rxfifo := [7#32] }.rxfifo = 7#32 :: [] ∧ opened.rxfifo = [] := by decide

/-- `SET_EN 0` as the next move of an open session. -/
def disabling : State := { opened with sched := [.issue 0 (encode (.setEn 0#32))] }

theorem witness_ParametersAndOpaqueRegistersKeepTheirValue :
    disabling.power = .ready ∧ (after (step disabling)).power = .ready ∧ step disabling = .next (after (step disabling)) :=
  ⟨by decide, by decide, rfl⟩

/-- A serial side with one word to send. -/
def sending : State := { opened with clockRunning := true, csTxon := true, txfifo := [0x105#32] }

theorem witness_TxTickMovesOneSample :
    (sending.power ≠ .failed ∧ sending.power = .ready ∧ sending.clockRunning = true ∧ sending.csEn = true ∧
      sending.csTxon = true ∧ sending.txfifo = 0x105#32 :: []) ∧
    (State.blockOff sc).power = .off ∧ opened.clockRunning = false ∧ { sending with csEn := false }.csEn = false ∧
    { sending with csTxon := false }.csTxon = false ∧ { sending with txfifo := [] }.txfifo = [] := by decide

theorem witness_RxTickTakesOneSample :
    (let s := { opened with clockRunning := true, csRxon := true, lineInRest := ⟨[0xFF#8], none⟩, rxfifo := [1#32] }
     s.power ≠ .failed ∧ s.power = .ready ∧ s.clockRunning = true ∧ s.lineInRest = ⟨0xFF#8 :: [], none⟩ ∧
       s.csEn = true ∧ s.csRxon = true ∧ s.rxfifo.length < s.cfg.hwFifoDepth) ∧
    (let s := { opened with clockRunning := true, csRxon := true, lineInRest := ⟨[], some ⟨0, 7⟩⟩, rxfifo := [1#32, 2#32] }
     s.power = .ready ∧ s.clockRunning = true ∧ s.lineInRest = ⟨[], some ⟨0, 7⟩⟩ ∧
       s.cfg.hwFifoDepth ≤ s.rxfifo.length) ∧
    opened.lineInRest = ⟨[], none⟩ := by decide

theorem witness_ClearUnitEmptiesFifos :
    (let s := { clearing with clockRunning := true, rxclrPending := true }
     s.power ≠ .failed ∧ s.power = .ready ∧ s.clockRunning = true ∧ s.txclrPending = true ∧ s.rxclrPending = true) ∧
    clearing.clockRunning = false ∧ opened.txclrPending = false ∧ opened.rxclrPending = false := by decide

theorem witness_OverallEnableStopsTheLine :
    let s := { sending with csEn := false, sched := [.txTick] }
    s.power = .ready ∧ (after (step s)).power = .ready ∧ s.csEn = false ∧ step s = .next (after (step s)) :=
  ⟨by decide, by decide, by decide, rfl⟩

/-- A step that puts a sample on the line. -/
theorem witness_LineRecordOnlyGrows :
    let s := { sending with sched := [.txTick] }
    s.power = .ready ∧ (after (step s)).power = .ready ∧ step s = .next (after (step s)) ∧
      (after (step s)).lineOut = [5#8] :=
  ⟨by decide, by decide, rfl, by decide⟩

theorem witness_ClockCallsSetTheInput : (State.blockOff sc).power ≠ .failed ∧ opened.power ≠ .failed := by decide

theorem witness_ServiceEntry :
    (opened.power ≠ .failed ∧ opened.eng.phase = .idle ∧ opened.power = .ready ∧ opened.isrRegistered = true ∧
      opened.svcPending = true ∧ opened.inService = false) ∧
    ((State.blockOff sc).power = .off ∧ (State.blockOff sc).eng.phase = .idle) ∧
    (closed.power ≠ .failed ∧ closed.eng.phase = .idle ∧ closed.isrRegistered = false) ∧
    { opened with svcPending := false }.svcPending = false ∧ { opened with inService := true }.inService = true := by
  decide

theorem witness_ServiceTestsReadLiveConditions :
    (inPhase .s2test 0 opened).power = .ready ∧ (inPhase .s2test 0 opened).eng.phase = .s2test ∧
    (inPhase .s3test 0 opened).power = .ready ∧ (inPhase .s3test 0 opened).eng.phase = .s3test := by decide

/-- The loop's exits at their boundary, a pull, a miss below the threshold and one that reaches it. -/
theorem witness_TransmitLoopIteration :
    (let s := inPhase .s2loop 64 opened
     s.power = .ready ∧ s.eng.phase = .s2loop ∧ s.cfg.batchLimit ≤ s.eng.i) ∧
    (let s := inPhase .s2loop 0 { opened with txfifo := [1#32, 2#32] }
     s.cfg.hwFifoDepth ≤ s.txfifo.length) ∧
    (let s := inPhase .s2loop 63 { txFull with txfifo := [1#32] }
     s.power = .ready ∧ s.eng.phase = .s2loop ∧ s.eng.i < s.cfg.batchLimit ∧ s.txfifo.length < s.cfg.hwFifoDepth ∧
       s.txring.head ≠ s.txring.tail) ∧
    (let s := inPhase .s2loop 0 { opened with txUnderflow := 1 }
     s.eng.i < s.cfg.batchLimit ∧ s.txfifo.length < s.cfg.hwFifoDepth ∧ s.txring.head = s.txring.tail ∧
       min (s.txUnderflow + 1) s.cfg.counterMax < s.cfg.threshold) ∧
    (let s := inPhase .s2loop 0 { opened with txUnderflow := 2 }
     s.txring.head = s.txring.tail ∧ s.cfg.threshold ≤ min (s.txUnderflow + 1) s.cfg.counterMax) := by decide

theorem witness_ReceiveLoopIteration :
    (let s := inPhase .s3loop 64 opened
     s.power = .ready ∧ s.eng.phase = .s3loop ∧ s.cfg.batchLimit ≤ s.eng.i) ∧
    (inPhase .s3loop 0 opened).rxfifo = [] ∧
    (let s := inPhase .s3loop 63 { received with rxfifo := [0x144#32] }
     s.power = .ready ∧ s.eng.phase = .s3loop ∧ s.eng.i < s.cfg.batchLimit ∧ s.rxfifo = 0x144#32 :: [] ∧
       (s.rxring.head + 1) % (s.cfg.nRx + 1) ≠ s.rxring.tail) ∧
    (let s := inPhase .s3loop 0 { rxFull with rxfifo := [0x33#32], rxOverflow := 1 }
     s.eng.i < s.cfg.batchLimit ∧ s.rxfifo = 0x33#32 :: [] ∧
       (s.rxring.head + 1) % (s.cfg.nRx + 1) = s.rxring.tail ∧
       min (s.rxOverflow + 1) s.cfg.counterMax < s.cfg.threshold) ∧
    (let s := inPhase .s3loop 0 { rxFull with rxfifo := [0x33#32], rxOverflow := 2 }
     (s.rxring.head + 1) % (s.cfg.nRx + 1) = s.rxring.tail ∧
       s.cfg.threshold ≤ min (s.rxOverflow + 1) s.cfg.counterMax) := by decide

theorem witness_ServiceReturn :
    (let s := { inPhase .s4 0 opened with sched := [.engine] }
     s.power = .ready ∧ s.sched = .engine :: [] ∧ s.eng.phase = .s4) ∧
    (let s := { inPhase .s5 0 opened with sched := [.engine] }
     s.power = .ready ∧ s.sched = .engine :: [] ∧ s.eng.phase = .s5) := by decide

theorem witness_InvocationNeverWaitsAndIsBounded :
    ((inPhase .s3loop 0 opened).power = .ready ∧ (inPhase .s3loop 0 opened).eng.phase ≠ .idle) ∧
    (opened.power = .ready ∧ opened.eng.phase = .idle ∧ opened.isrRegistered = true ∧ opened.svcPending = true ∧
      opened.inService = false) := by decide

/-- The first invocation and the last (P3). -/
theorem witness_StarvedTransmitTripsAtThreshold :
    let s := { opened with csTxon := true }
    s.cfg.wf ∧ s.power = .ready ∧ s.Settled ∧ s.eng = ⟨.idle, 0⟩ ∧ s.inService = false ∧ s.isrRegistered = true ∧
      s.svcPending = true ∧ s.intenTxw = true ∧ s.sched = [] ∧ s.txring.head = s.txring.tail ∧
      s.txfifo.length < s.cfg.txReadyLevel ∧ s.rxfifo.length < s.cfg.rxReadyLevel ∧ s.txUnderflow = 0 ∧
      (0 < 1 ∧ 1 < s.cfg.threshold) ∧ (0 < 3 ∧ 3 = s.cfg.threshold) := by decide

theorem witness_LifeCycleEvents :
    ((State.blockOff sc).power = .off ∧ (State.blockOff sc).cfg.initOk = true ∧ (State.blockOff sc).cfg.wf) ∧
    ((State.blockOff { sc with initOk := false }).power = .off ∧
      (State.blockOff { sc with initOk := false }).cfg.initOk = false) ∧
    (closed.power = .ready ∧ closed.usageRef = 0) ∧ (opened.power = .ready ∧ opened.usageRef ≠ 0) := by decide

theorem witness_ResetSatisfiesInvariant : sc.wf ∧ Config.reference.wf := by decide

/-- An engine step from a state of the invariant. -/
theorem witness_StepKeepsInvariant :
    { txFull with sched := [.engine] }.Inv ∧
      step { txFull with sched := [.engine] } = .next (after (step { txFull with sched := [.engine] })) :=
  ⟨⟨by decide, by decide, by decide, by decide, by decide, by decide, by decide⟩, rfl⟩

/-- A request and a performed clear of each direction: F2, `ClearTx`, F2, `ClearRx`. -/
theorem witness_EnabledDirectionIsNeverCleared :
    (let s := { opened with hostop := some ⟨0, .clrTx .f2 true⟩, sched := [.host] }
     s.Inv ∧ step s = .next (after (step s)) ∧ (after (step s)).txclrPending ≠ s.txclrPending) ∧
    (let s := { clearing with clockRunning := true, sched := [.clearTx] }
     s.Inv ∧ step s = .next (after (step s)) ∧ (after (step s)).txclrPending ≠ s.txclrPending) ∧
    (let s := { opened with hostop := some ⟨0, .clrRx .f2 true⟩, sched := [.host] }
     s.Inv ∧ step s = .next (after (step s)) ∧ (after (step s)).rxclrPending ≠ s.rxclrPending) ∧
    (let s := { clearingRx with clockRunning := true, sched := [.clearRx] }
     s.Inv ∧ step s = .next (after (step s)) ∧ (after (step s)).rxclrPending ≠ s.rxclrPending) :=
  ⟨⟨⟨by decide, by decide, by decide, by decide, by decide, by decide, by decide⟩, rfl, by decide⟩,
   ⟨⟨by decide, by decide, by decide, by decide, by decide, by decide, by decide⟩, rfl, by decide⟩,
   ⟨⟨by decide, by decide, by decide, by decide, by decide, by decide, by decide⟩, rfl, by decide⟩,
   ⟨⟨by decide, by decide, by decide, by decide, by decide, by decide, by decide⟩, rfl, by decide⟩⟩

/-- One step that opens, one that closes, one that completes a held `CLOSE`. -/
theorem witness_SessionOpensAndClosesByRequest :
    (let s := { closed with sched := [.issue 0 (encode .openSession)] }
     s.Inv ∧ step s = .next (after (step s)) ∧
       (s.power = .ready ∧ (after (step s)).power = .ready ∧ s.inUse = false ∧ (after (step s)).inUse = true)) ∧
    (let s := { opened with sched := [.issue 0 (encode .closeSession)] }
     s.Inv ∧ step s = .next (after (step s)) ∧
       (s.power = .ready ∧ (after (step s)).power = .ready ∧ s.inUse = true ∧ (after (step s)).inUse = false)) ∧
    (let s := { opened with held := some 0, sched := [.host] }
     s.Inv ∧ step s = .next (after (step s)) ∧ (s.inUse = true ∧ (after (step s)).inUse = false)) :=
  ⟨⟨⟨by decide, by decide, by decide, by decide, by decide, by decide, by decide⟩, rfl, by decide⟩,
   ⟨⟨by decide, by decide, by decide, by decide, by decide, by decide, by decide⟩, rfl, by decide⟩,
   ⟨⟨by decide, by decide, by decide, by decide, by decide, by decide, by decide⟩, rfl, by decide⟩⟩

/-- Each counter changed by the engine, and by `CLOSE`. -/
theorem witness_CounterWriters :
    (let s := { inPhase .s2loop 0 opened with sched := [.engine] }
     step s = .next (after (step s)) ∧
       (s.power = .ready ∧ (after (step s)).power = .ready ∧ (after (step s)).txUnderflow ≠ s.txUnderflow)) ∧
    (let s := { inPhase .s3loop 0 { rxFull with rxfifo := [0x33#32], rxOverflow := 2 } with sched := [.engine] }
     step s = .next (after (step s)) ∧
       (s.power = .ready ∧ (after (step s)).power = .ready ∧ (after (step s)).rxOverflow ≠ s.rxOverflow)) ∧
    (let s := { opened with txUnderflow := 1, sched := [.issue 0 (encode .closeSession)] }
     step s = .next (after (step s)) ∧
       (s.power = .ready ∧ (after (step s)).power = .ready ∧ (after (step s)).txUnderflow ≠ s.txUnderflow)) :=
  ⟨⟨rfl, by decide⟩, ⟨rfl, by decide⟩, ⟨rfl, by decide⟩⟩

/-- A refused write, and the last step of a write in flight. -/
theorem witness_FailedResponseChangesNothing :
    (exec (.write []) txFull = .next (after (exec (.write []) txFull)) ∧
      (after (exec (.write []) txFull)).responses = txFull.responses ++ [(0, ⟨.wouldBlock, 0#32, []⟩)] ∧
      Status.wouldBlock ≠ .ok) ∧
    (let s := { opened with hostop := some ⟨0, .write [] 0⟩ }
     s.hostStep = .next (after s.hostStep) ∧
       (after s.hostStep).responses = s.responses ++ [(0, ⟨.ok, 0#32, []⟩)]) :=
  ⟨⟨rfl, by decide, by decide⟩, ⟨rfl, by decide⟩⟩

/-- The engine takes a sample out of the full transmit ring. -/
theorem witness_QueriedCountsAreLowerBounds :
    let s := { inPhase .s2loop 0 txFull with sched := [.engine] }
    s.Inv ∧ step s = .next (after (step s)) ∧
      (s.power = .ready ∧ (after (step s)).power = .ready ∧ s.requestOf = none ∧ s.nextMove ≠ .host ∧
        s.txring.remainingSpace s.cfg.nTx < (after (step s)).txring.remainingSpace (after (step s)).cfg.nTx) :=
  ⟨⟨by decide, by decide, by decide, by decide, by decide, by decide, by decide⟩, rfl, by decide⟩

/-- The moves of a fair run: the end of an invocation, a transmit clear, a receive clear, `CLOSE`, then nothing but
`clockUp` for ever. -/
def fairMove (k : Nat) : Move :=
  [.engine, .clearTx, .host, .host, .issue 0 (encode .clrRxFifo), .host, .clearRx, .host, .host,
   .issue 0 (encode .closeSession)].getD k .clockUp

/-- The run, from a state with a pending clear, a routine at S5 and a pending edge. -/
def fairRun (k : Nat) : State :=
  match k with
  | 0 =>
    { inPhase .s5 0 opened with
      svcPending := true
      intenTxw := false
      intenRxr := false
      clockRunning := true
      hostop := some ⟨0, .clrTx .f3 false⟩
      txclrPending := true }
  | n + 1 => after (step ((fairRun n).withSched [fairMove n]))

/-- The outcome is a next state. -/
def isNext (o : Host.Outcome State Fault Refusal) : Bool :=
  match o with
  | .next _ => true
  | .fault _ => false
  | .refused _ => false

theorem next_after {o : Host.Outcome State Fault Refusal} (h : isNext o = true) : o = .next (after o) := by
  cases o
  · rfl
  · cases h
  · cases h

theorem fairRun_begin : ∀ k, k < 11 →
    isNext (step ((fairRun k).withSched [fairMove k])) = true ∧ (fairRun k).power = .ready ∧
      (fairRun k).clockRunning = true := by decide

theorem fairRun_stays : after (step ((fairRun 10).withSched [.clockUp])) = fairRun 10 := by decide

theorem fairRun_end (d : Nat) : fairRun (10 + d) = fairRun 10 := by
  induction d with
  | zero => rfl
  | succ d ih =>
    show after (step ((fairRun (10 + d)).withSched [fairMove (10 + d)])) = fairRun 10
    rw [ih, show fairMove (10 + d) = .clockUp from List.getD_eq_default _ _ (by simp), fairRun_stays]

theorem fairRun_each (k : Nat) :
    isNext (step ((fairRun k).withSched [fairMove k])) = true ∧ (fairRun k).power = .ready ∧
      (fairRun k).clockRunning = true := by
  by_cases h : k < 11
  · exact fairRun_begin k h
  · obtain ⟨d, rfl⟩ : ∃ d, k = 10 + d := ⟨k - 10, by omega⟩
    rw [fairRun_end, show fairMove (10 + d) = fairMove 10 from List.getD_eq_default _ _ (by simp)]
    exact fairRun_begin 10 (by decide)

theorem fairRun_disabled : ∀ m ∈ fairMoves, (fairRun 10).act m = .next (fairRun 10) := by
  simp only [fairMoves, List.forall_mem_cons]
  exact ⟨rfl, rfl, rfl, rfl, rfl, rfl, by simp⟩

/-- The premises, and the states at which each clause begins: 0 (transmit clear, S5), 1 (pending edge), 5 (an operation
at F2), 6 (receive clear). -/
theorem witness_FairRunsMakeProgress :
    IsRun fairRun fairMove ∧ WeaklyFair fairRun fairMove ∧ (fairRun 0).Inv ∧ (∀ k, (fairRun k).power = .ready) ∧
    ((∀ k, (fairRun k).clockRunning = true) ∧ (fairRun 0).txclrPending = true ∧
      (fairRun 6).rxclrPending = true ∧ (fairRun 0).eng.phase ≠ .idle ∧ (fairRun 1).svcPending = true ∧
      (fairRun 1).inService = false ∧ (fairRun 5).hostop = some ⟨0, .clrRx .f2 false⟩) := by
  refine ⟨fun k => next_after (fairRun_each k).1, ?_,
    ⟨by decide, by decide, by decide, by decide, by decide, by decide, by decide⟩, fun k => (fairRun_each k).2.1,
    fun k => (fairRun_each k).2.2, by decide⟩
  intro m hm n h
  refine absurd (h (10 + n) (by omega)) ?_
  rw [fairRun_end]
  exact fun hc => hc (fairRun_disabled m hm)

theorem witness_StopSessionDisablesAndCloses :
    let s := { received with csTxon := true, csRxon := true }
    s.Issuable ∧ s.Settled ∧ s.sched = [] ∧ s.call = none ∧ s.inService = false := by decide

/-- Frames of three samples against four free places, and against three. -/
theorem witness_WriteFrameNeedsMoreThanAFrame :
    (let s := { opened with cfg := { sc with frameSize := 3 } }
     s.Issuable ∧ s.Settled ∧ s.cfg.wf ∧ s.sched = [] ∧ s.call = none ∧ s.txring.Ok s.cfg.nTx ∧
       [1#8, 2#8, 3#8].length = s.cfg.frameSize ∧ s.cfg.frameSize < 4294967296 ∧
       s.cfg.frameSize < s.txring.remainingSpace s.cfg.nTx) ∧
    (let s := { opened with cfg := { sc with frameSize := 3 }, txring := ringOf 1 0 [9#8] }
     s.Issuable ∧ s.Settled ∧ s.cfg.wf ∧ s.sched = [] ∧ s.call = none ∧ s.txring.Ok s.cfg.nTx ∧
       [1#8, 2#8, 3#8].length = s.cfg.frameSize ∧ s.txring.remainingSpace s.cfg.nTx = s.cfg.frameSize) := by decide

/-- Frames of two samples against three samples held, and frames of three; a short answer to the `READ`. -/
theorem witness_ReadFrameNeedsMoreThanAFrame :
    (let s := { received with cfg := { sc with frameSize := 2 } }
     s.Issuable ∧ s.Settled ∧ s.cfg.wf ∧ s.sched = [] ∧ s.call = none ∧ s.rxring.Ok s.cfg.nRx ∧
       s.cfg.frameSize < s.rxring.itemCount s.cfg.nRx) ∧
    (let s := { received with cfg := { sc with frameSize := 3 } }
     s.Issuable ∧ s.Settled ∧ s.cfg.wf ∧ s.sched = [] ∧ s.call = none ∧ s.rxring.Ok s.cfg.nRx ∧
       s.rxring.itemCount s.cfg.nRx ≤ s.cfg.frameSize) ∧
    (⟨.ok, 159#32, []⟩ : Response).value.toNat < received.cfg.frameSize := by decide

end Sys2Proof.Tests
end

