-- ==== Sys2Proof/Proofs/Decoder.lean ====
section
/-! PROOF. The decoder of R68, said once: its two header fields as numbers, what each class row answers, and when each
part of it refuses; from these the totality of the decoder. -/

namespace Sys2Proof.Laws

open Sys2Proof

/-! ### The header's fields (R61) -/

theorem headerClass_toNat (hdr : Word) : (headerClass hdr).toNat = hdr.toNat / 2 ^ 28 := by
  have hlt : hdr.toNat / 2 ^ 28 < 2 ^ 4 := by have := hdr.isLt; omega
  rw [headerClass, BitVec.extractLsb'_toNat, Nat.shiftRight_eq_div_pow, Nat.mod_eq_of_lt hlt]

theorem headerCode_toNat (hdr : Word) : (headerCode hdr).toNat = hdr.toNat % 2 ^ 28 := by
  rw [headerCode, BitVec.extractLsb'_toNat, Nat.shiftRight_zero]

/-! ### The parts of the decoder, where they answer and where they refuse -/

theorem onlyCodeZero_of_code_zero {hdr : Word} (i : Except Illegal Instr) (h : (headerCode hdr).toNat = 0) :
    onlyCodeZero hdr i = i :=
  if_pos (BitVec.eq_of_toNat_eq h)

theorem onlyCodeZero_of_code_ne_zero {hdr : Word} (i : Except Illegal Instr) (h : (headerCode hdr).toNat ≠ 0) :
    onlyCodeZero hdr i = .error .nonzeroCode :=
  if_neg fun hz => h (congrArg BitVec.toNat hz)

/-- A row that takes `code = 0` only refuses on any other code, and where its operands do (R61). -/
theorem onlyCodeZero_error_iff {hdr : Word} {code : Nat} (hcode : (headerCode hdr).toNat = code)
    (i : Except Illegal Instr) :
    (∃ e, onlyCodeZero hdr i = .error e) ↔ code ≠ 0 ∨ ∃ e, i = .error e := by
  by_cases h : code = 0
  · simp [onlyCodeZero_of_code_zero i (hcode.trans h), h]
  · simp [onlyCodeZero_of_code_ne_zero i (hcode.trans_ne h), h]

theorem decodeWrite_of_length {arg : Word} {payload : List Byte} (h : arg.toNat = payload.length) :
    decodeWrite arg payload = .ok (.write payload) :=
  if_pos h

theorem decodeWrite_error_iff (arg : Word) (payload : List Byte) :
    (∃ e, decodeWrite arg payload = .error e) ↔ arg.toNat ≠ payload.length := by
  by_cases h : arg.toNat = payload.length
  · simp [decodeWrite_of_length h, h]
  · simp [decodeWrite, h]

/-- The nine codes of R63 are commands, every further code is none (R150). -/
theorem decodeCommand_error_iff (code : Nat) (arg : Word) :
    (∃ e, decodeCommand code arg = .error e) ↔ 9 ≤ code := by
  match code with
  | 0 | 1 | 2 | 3 | 4 | 5 | 6 | 7 | 8 => simp [decodeCommand]
  | k + 9 => simp [decodeCommand]

/-! ### The rows of the decoder, by class (R68) -/

theorem decode_class_zero {r : Request} (h : (headerClass r.hdr).toNat = 0) :
    decode r = onlyCodeZero r.hdr (.ok .openSession) := by
  simp only [decode, h]

theorem decode_class_one {r : Request} (h : (headerClass r.hdr).toNat = 1) :
    decode r = onlyCodeZero r.hdr (.ok .closeSession) := by
  simp only [decode, h]

theorem decode_class_two {r : Request} (h : (headerClass r.hdr).toNat = 2) :
    decode r = onlyCodeZero r.hdr (.ok (.read r.arg)) := by
  simp only [decode, h]

theorem decode_class_three {r : Request} (h : (headerClass r.hdr).toNat = 3) :
    decode r = onlyCodeZero r.hdr (decodeWrite r.arg r.payload) := by
  simp only [decode, h]

/-- A request of class 4 with code `n` is command number `n` with the argument word (R63). -/
theorem decode_class_four {r : Request} {n : Nat} (hcls : (headerClass r.hdr).toNat = 4)
    (hcode : (headerCode r.hdr).toNat = n) : decode r = decodeCommand n r.arg := by
  simp only [decode, hcls, hcode]

theorem decode_class_reserved {r : Request} {k : Nat} (h : (headerClass r.hdr).toNat = k + 5) :
    decode r = .error .reservedClass := by
  simp only [decode, h]

/-- The last row of R68: what is `Illegal`, class by class. -/
theorem decode_error_iff {r : Request} {cls code : Nat} (hcls : (headerClass r.hdr).toNat = cls)
    (hcode : (headerCode r.hdr).toNat = code) :
    (∃ e, decode r = .error e) ↔
      (5 ≤ cls ∨ (cls ≤ 3 ∧ code ≠ 0) ∨ (cls = 3 ∧ r.arg.toNat ≠ r.payload.length) ∨ (cls = 4 ∧ 9 ≤ code)) := by
  match cls with
  | 0 => simp [decode_class_zero hcls, onlyCodeZero_error_iff hcode]
  | 1 => simp [decode_class_one hcls, onlyCodeZero_error_iff hcode]
  | 2 => simp [decode_class_two hcls, onlyCodeZero_error_iff hcode]
  | 3 => simp [decode_class_three hcls, onlyCodeZero_error_iff hcode, decodeWrite_error_iff]
  | 4 => simp [decode_class_four hcls hcode, decodeCommand_error_iff]
  | k + 5 => simp [decode_class_reserved hcls]

/-- Settles O3: each row of R68 by its class and code, and `Illegal` by `decode_error_iff`. -/
theorem decoderIsTotal : Obligations.DecoderIsTotal := by
  intro r cls code hcls hcode
  replace hcls : (headerClass r.hdr).toNat = cls := (headerClass_toNat r.hdr).trans hcls.symm
  replace hcode : (headerCode r.hdr).toNat = code := (headerCode_toNat r.hdr).trans hcode.symm
  have codeZero (hc : code = 0) (i : Except Illegal Instr) : onlyCodeZero r.hdr i = i :=
    onlyCodeZero_of_code_zero i (hcode.trans hc)
  have command (n : Nat) (h4 : cls = 4) (hn : code = n) : decode r = decodeCommand n r.arg :=
    decode_class_four (hcls.trans h4) (hcode.trans hn)
  refine ⟨fun h0 hc => ?_, fun h1 hc => ?_, fun h2 hc => ?_, fun h3 hc hlen => ?_, command 0, command 1, command 2,
    command 3, command 4, command 5, command 6, command 7, command 8, decode_error_iff hcls hcode⟩
  · rw [decode_class_zero (hcls.trans h0), codeZero hc]
  · rw [decode_class_one (hcls.trans h1), codeZero hc]
  · rw [decode_class_two (hcls.trans h2), codeZero hc]
  · rw [decode_class_three (hcls.trans h3), codeZero hc, decodeWrite_of_length hlen]

end Sys2Proof.Laws
end

