-- ==== Sys2Proof/Proofs/Ring.lean ====
section
/-! PROOF. The two ring primitives (R101, R102): when each answers nothing, what each leaves when it answers, and that
advancing an index loses nothing; from these the three statements about a single `tryRead` or `tryWrite`. -/

namespace Sys2Proof.Laws

open Sys2Proof.Machine

/-! ### When a primitive answers, and with what -/

/-- `tryWrite` refuses by its full test alone, on any indices. -/
theorem tryWrite_eq_none_iff {n : Nat} {r : Ring} {sample : Byte} :
    r.tryWrite n sample = none ↔ (r.head + 1) % (n + 1) = r.tail := by
  rcases tryWrite_cases n r sample with ⟨hfull, e⟩ | ⟨hroom, e⟩
  · simp [e, hfull]
  · simp [e, hroom]

theorem tryWrite_eq_some_iff {n : Nat} {r r' : Ring} {sample : Byte} :
    r.tryWrite n sample = some r' ↔ (r.head + 1) % (n + 1) ≠ r.tail ∧
      r' = { r with slots := r.slots.write r.head sample, head := (r.head + 1) % (n + 1) } := by
  rcases tryWrite_cases n r sample with ⟨hfull, e⟩ | ⟨hroom, e⟩
  · simp [e, hfull]
  · simp [e, hroom, eq_comm]

/-- `tryRead` answers nothing by its empty test alone, on any indices. -/
theorem tryRead_eq_none_iff {n : Nat} {free : Nat → Byte} {r : Ring} :
    r.tryRead n free = none ↔ r.head = r.tail := by
  rcases tryRead_cases n free r with ⟨hempty, e⟩ | ⟨hheld, e⟩
  · simp [e, hempty]
  · simp [e, hheld]

theorem tryRead_eq_some_iff {n : Nat} {free : Nat → Byte} {r r' : Ring} {sample : Byte} :
    r.tryRead n free = some (sample, r') ↔ r.head ≠ r.tail ∧
      sample = r.slot free r.tail ∧ r' = { r with tail := (r.tail + 1) % (n + 1) } := by
  rcases tryRead_cases n free r with ⟨hempty, e⟩ | ⟨hheld, e⟩
  · simp [e, hempty]
  · simp [e, hheld, eq_comm]

/-- Two indices in `0..n` with the same successor modulo `n + 1` are the same index. -/
theorem eq_of_advance_eq {n a b : Nat} (ha : a ≤ n) (hb : b ≤ n) (h : (a + 1) % (n + 1) = (b + 1) % (n + 1)) :
    a = b := by
  have hmod : a % (n + 1) = b % (n + 1) := Nat.ModEq.add_right_cancel' 1 h
  rwa [Nat.mod_eq_of_lt (Nat.lt_succ_of_le ha), Nat.mod_eq_of_lt (Nat.lt_succ_of_le hb)] at hmod

/-! ### The statements -/

/-- Settles O25: a `tryWrite` that answers has found room, and then the sample joins the contents at the old `head`. -/
theorem tryWriteAppends : Obligations.TryWriteAppends := by
  intro n free r sample _ hok
  have ⟨hh, ht, _⟩ := hok
  refine ⟨tryWrite_eq_none_iff, tryWrite_eq_none_iff.trans (isFull_iff hh ht), fun r' hw => ?_⟩
  obtain ⟨hroom, rfl⟩ := tryWrite_eq_some_iff.mp hw
  exact ⟨rfl, rfl, congrFun (slot_write free r r.head _ r.tail sample), write_ok sample hok,
    write_contents free sample hh ht hroom, write_itemCount _ hh ht hroom⟩

/-- Settles O26: a `tryRead` that answers has found a sample, and then the first of the contents leaves them. -/
theorem tryReadTakesOldest : Obligations.TryReadTakesOldest := by
  intro n free r _ hok
  have ⟨hh, ht, _⟩ := hok
  refine ⟨tryRead_eq_none_iff, tryRead_eq_none_iff.trans (itemCount_eq_zero hh ht).symm, fun sample r' hr => ?_⟩
  obtain ⟨hheld, rfl, rfl⟩ := tryRead_eq_some_iff.mp hr
  exact ⟨rfl, rfl, read_ok hok, read_contents free hh ht hheld, read_itemCount hh ht hheld⟩

/-- Settles O24: a read cannot leave the ring full, as advancing `tail` keeps it apart from the advanced `head`; a write
cannot leave it empty, as it found the advanced `head` apart from `tail`. -/
theorem ringPrimitivesFollowTheirRules : Obligations.RingPrimitivesFollowTheirRules := by
  intro n free r sample _ hh ht
  refine ⟨tryRead_eq_none_iff.mpr, fun hheld => ⟨?_, fun hfull => hheld (eq_of_advance_eq hh ht hfull)⟩,
    tryWrite_eq_none_iff.mpr, fun hroom => ⟨_, tryWrite_eq_some_iff.mpr ⟨hroom, rfl⟩, rfl, rfl, ?_, hroom⟩⟩
  · exact tryRead_eq_some_iff.mpr ⟨hheld, rfl, rfl⟩
  · exact congrFun (slot_write free r r.head _ r.tail sample)

end Sys2Proof.Laws
end

