-- ==== Sys2Proof/Proofs/Commands.lean ====
section
/-! PROOF. The argument of an enable command (R64), what the command does with a legal and with an illegal one (R145 to
R147, R151), and from these the statement about the three commands. -/

namespace Sys2Proof.Laws

open Sys2Proof
open Sys2Proof.Machine

/-! ### The argument -/

theorem enableArg_of_legal {arg : Word} (h : arg = 0#32 ∨ arg = 1#32) :
    enableArg arg = some (decide (arg = 1#32)) := by
  rcases h with rfl | rfl <;> rfl

theorem enableArg_of_illegal {arg : Word} (h0 : arg ≠ 0#32) (h1 : arg ≠ 1#32) : enableArg arg = none := by
  simp [enableArg, h0, h1]

/-! ### The command, for any field -/

theorem setEnable_of_legal (s : State) (f : CsField) {arg : Word} (h : arg = 0#32 ∨ arg = 1#32) :
    s.setEnable f arg = (s.csUpdate f (decide (arg = 1#32))).answered s.caller .ok 0#32 [] := by
  simp only [State.setEnable, enableArg_of_legal h]
  rfl

theorem setEnable_of_illegal (s : State) (f : CsField) {arg : Word} (h0 : arg ≠ 0#32) (h1 : arg ≠ 1#32) :
    s.setEnable f arg = s.answered s.caller .invalidArgument 0#32 [] := by
  simp only [State.setEnable, enableArg_of_illegal h0 h1]
  rfl

/-! ### The statement -/

/-- Settles O18: each command goes through the host port as `setEnable` of its field, which splits on the argument. -/
theorem enableCommandsSetTheirField : Obligations.EnableCommandsSetTheirField := by
  intro s arg hs
  have port (f : CsField) : whenHolder s (s.setEnable f arg) = .next (s.setEnable f arg) := whenHolder_issuable _ hs
  refine ⟨fun hlegal => ?_, fun h0 h1 => ?_⟩
  · have legal (f : CsField) := (port f).trans (congrArg _ (setEnable_of_legal s f hlegal))
    exact ⟨legal .en, legal .txon, legal .rxon⟩
  · have illegal (f : CsField) := (port f).trans (congrArg _ (setEnable_of_illegal s f h0 h1))
    exact ⟨illegal .en, illegal .txon, illegal .rxon⟩

end Sys2Proof.Laws
end

section
/-! PROOF. Encoding (30_encoding.md): decoding and assembling undo encoding and printing, each row by its class and code
or by its mnemonic. -/

namespace Sys2Proof.Laws

open Sys2Proof

/-- Settles O2: the row of each instruction fixes the class and code its encoding is decoded by. -/
theorem decodeEncodeRoundTrip : Obligations.DecodeEncodeRoundTrip := by
  intro i hwf
  obtain ⟨hcls, hcode, harg, _⟩ := HeaderInTable.row i
  cases i with
  | openSession => rw [decode_class_zero hcls, onlyCodeZero_of_code_zero _ hcode]
  | closeSession => rw [decode_class_one hcls, onlyCodeZero_of_code_zero _ hcode]
  | read maxBytes => rw [decode_class_two hcls, onlyCodeZero_of_code_zero _ hcode]; rfl
  | write payload =>
    rw [decode_class_three hcls, onlyCodeZero_of_code_zero _ hcode]
    exact decodeWrite_of_length (harg hwf rfl)
  | getTxSpace => exact decode_class_four hcls hcode
  | getRxCount => exact decode_class_four hcls hcode
  | clrTxFifo => exact decode_class_four hcls hcode
  | clrRxFifo => exact decode_class_four hcls hcode
  | setEn arg => exact decode_class_four hcls hcode
  | setTxEn arg => exact decode_class_four hcls hcode
  | setRxEn arg => exact decode_class_four hcls hcode
  | clrTxRing => exact decode_class_four hcls hcode
  | clrRxRing => exact decode_class_four hcls hcode

/-- Settles O1: each word of the vectors evaluates to what the vector says. -/
theorem specWordsDecode : Obligations.SpecWordsDecode := by
  unfold Obligations.SpecWordsDecode
  decide

/-! ### The text of a line (R72) -/

theorem asmOne_toNat (w : Word) (mk : Word → Instr) : asmOne [w.toNat] mk = some (mk w) := by
  have hfits : asmWord w.toNat = some w := by
    rw [asmWord, if_pos w.isLt, BitVec.ofNat_toNat, BitVec.setWidth_eq]
  simp [asmOne, hfits]

theorem asmByte_toNat (b : Byte) : asmByte b.toNat = some b := by
  rw [asmByte, if_pos b.isLt, BitVec.ofNat_toNat, BitVec.setWidth_eq]

theorem asmBytes_map_toNat (payload : List Byte) : asmBytes (payload.map BitVec.toNat) = some payload := by
  induction payload with
  | nil => rfl
  | cons b rest ih => simp only [List.map_cons, asmBytes, asmByte_toNat, ih]

/-- Settles O4: the mnemonics are told apart, and the operand forms read back what they print. -/
theorem textAssemblesBack : Obligations.TextAssemblesBack := by
  intro i _
  cases i with
  | read maxBytes => simp [Instr.text, assemble, asmOne_toNat]
  | write payload => simp [Instr.text, assemble, asmBytes_map_toNat]
  | setEn arg => simp [Instr.text, assemble, asmOne_toNat]
  | setTxEn arg => simp [Instr.text, assemble, asmOne_toNat]
  | setRxEn arg => simp [Instr.text, assemble, asmOne_toNat]
  | openSession | closeSession | getTxSpace | getRxCount | clrTxFifo | clrRxFifo | clrTxRing | clrRxRing =>
    simp [Instr.text, assemble, asmNone]

end Sys2Proof.Laws
end

section
/-! PROOF. The host port and the step (43_session_entry.md R130, R131, R135; 10_state.md R21, R22): what an operation
meets before anything else, what the latches add, and the operations that take one step. -/

namespace Sys2Proof.Laws

open Sys2Proof
open Sys2Proof.Machine

/-! ### The guard of every operation -/

/-- Every operation runs behind one of the two guards of the port, and only `OPEN` behind the weaker one. -/
theorem exec_guard (i : Instr) (s : State) :
    (i = .openSession ∧ ∃ t, exec i s = whenReady s t) ∨ (i ≠ .openSession ∧ ∃ t, exec i s = whenHolder s t) := by
  cases i
  case openSession => exact .inl ⟨rfl, _, rfl⟩
  all_goals exact .inr ⟨nofun, _, rfl⟩

theorem whenHolder_failed {s : State} (t : State) (h : s.power = .failed) :
    whenHolder s t = .fault .initializationFailed := by
  simp [whenHolder, h]

theorem whenHolder_off {s : State} (t : State) (h : s.power = .off) : whenHolder s t = .refused .blockOff := by
  simp [whenHolder, h]

theorem whenHolder_closed {s : State} (t : State) (hp : s.power = .ready) (hu : s.inUse = false) :
    whenHolder s t = .refused .sessionClosed := by
  simp [whenHolder, hp, hu]

theorem whenHolder_stranger {s : State} (t : State) (hp : s.power = .ready) (hu : s.inUse = true)
    (hh : s.holder ≠ some s.caller) : whenHolder s t = .refused .notHolder := by
  simp [whenHolder, hp, hu, hh]

theorem whenHolder_inFlight {s : State} (t : State) (hp : s.power = .ready) (hu : s.inUse = true)
    (hh : s.holder = some s.caller) (hf : s.hostop ≠ none ∨ s.held ≠ none) :
    whenHolder s t = .refused .requestInFlight := by
  have hbusy : s.hostop.isSome = true ∨ s.held.isSome = true := by
    simpa only [Option.isSome_iff_ne_none] using hf
  simp [whenHolder, hp, hu, hh, hbusy]

theorem exec_failed (i : Instr) {s : State} (h : s.power = .failed) : exec i s = .fault .initializationFailed := by
  obtain ⟨_, t, e⟩ | ⟨_, t, e⟩ := exec_guard i s
  · simp [e, whenReady, h]
  · rw [e, whenHolder_failed t h]

theorem exec_off (i : Instr) {s : State} (h : s.power = .off) : exec i s = .refused .blockOff := by
  obtain ⟨_, t, e⟩ | ⟨_, t, e⟩ := exec_guard i s
  · simp [e, whenReady, h]
  · rw [e, whenHolder_off t h]

/-- Settles O7: the guard of every operation but `OPEN` checks session, holder and port in this order. -/
theorem onlyTheHolderMayIssue : Obligations.OnlyTheHolderMayIssue := by
  intro i s hi hp
  obtain ⟨hopen, _⟩ | ⟨_, t, e⟩ := exec_guard i s
  · exact absurd hopen hi
  · rw [e]
    exact ⟨whenHolder_closed t hp, whenHolder_stranger t hp, whenHolder_inFlight t hp⟩

theorem step_failed {s : State} (h : s.power = .failed) : step s = .fault .initializationFailed := by
  simp [step, State.act, h, settleOutcome]

/-- Settles O9: in `Failed` no move is looked at, and both guards refuse in `Off`. -/
theorem unreadyBlockRunsNoOperation : Obligations.UnreadyBlockRunsNoOperation :=
  fun _ => ⟨fun hf => ⟨step_failed hf, fun i => exec_failed i hf⟩, fun ho i => exec_off i ho⟩

/-! ### Issuing -/

theorem issue_of_decode {p : ProcId} {r : Request} {i : Instr} (s : State) (h : decode r = .ok i) :
    s.issue p r = exec i { s with caller := p } := by
  simp [State.issue, State.run, h]

theorem issue_of_illegal {p : ProcId} {r : Request} {e : Illegal} (s : State) (h : decode r = .error e) :
    s.issue p r =
      whenHolder { s with caller := p } ({ s with caller := p }.respond p (.error .invalidArgument)) := by
  simp [State.issue, State.run, h]

/-- Settles O5: the move is `issue`, which decodes and executes; a failed block answers the same fault either way. -/
theorem stepRunsDecodedRequest : Obligations.StepRunsDecodedRequest := by
  intro s p r rest i hs hd
  rw [step_sched hs]
  by_cases hf : s.power = .failed
  · rw [exec_failed i (s := { s with sched := rest, caller := p }) hf]
    simp [State.act, hf]
  · exact congrArg settleOutcome ((act_move (s := { s with sched := rest }) _ hf).trans (issue_of_decode _ hd))

/-- Settles O8: the refusal of the decoder is answered behind the guard of the port. -/
theorem illegalRequestAnswered : Obligations.IllegalRequestAnswered := by
  intro s r e hs hd
  rw [issue_of_illegal s hd]
  exact whenHolder_issuable _ hs

/-! ### The latches -/

theorem settle_irqLine (s : State) : s.settle.irqLine = (s.latchedTxw || s.latchedRxr) := rfl

/-- Rule R22: an edge of the line is what the latches add to the pending bit. -/
theorem settle_svcPending_iff (s : State) : s.settle.svcPending = true ↔
    s.svcPending = true ∨ (s.isrRegistered = true ∧ s.irqLine = false ∧ s.settle.irqLine = true) := by
  simp [State.risingEdge, settle_irqLine, and_assoc]

theorem settle_intstcTxw_iff {s : State} (h : s.power = .ready) : s.settle.intstcTxw = true ↔
    s.intstcTxw = true ∨ (s.txfifo.length < s.cfg.txReadyLevel ∧ s.intenTxw = true) := by
  simp [latchedTxw_iff, h]

theorem settle_intstcRxr_iff {s : State} (h : s.power = .ready) : s.settle.intstcRxr = true ↔
    s.intstcRxr = true ∨ (s.cfg.rxReadyLevel ≤ s.rxfifo.length ∧ s.intenRxr = true) := by
  simp [latchedRxr_iff, h]

/-- Settles O6: the step is the move's state followed by `settle`. -/
theorem latchesFollowEveryStep : Obligations.LatchesFollowEveryStep := by
  intro s t ht hp
  exact ⟨t.settle, congrArg settleOutcome ht, rfl, settle_intstcTxw_iff hp, settle_intstcRxr_iff hp,
    settle_svcPending_iff t⟩

/-! ### Operations of one step -/

theorem exec_open_of_closed {s : State} (hp : s.power = .ready) (hu : s.inUse = false) :
    exec .openSession s = .next ((s.openFor s.caller).respond s.caller .okPlain) := by
  show whenReady s _ = _
  rw [whenReady_ready _ hp, if_neg (by simp [hu])]

theorem exec_open_of_open {s : State} (hp : s.power = .ready) (hu : s.inUse = true) :
    exec .openSession s = .next (s.respond s.caller (.error .busy)) := by
  show whenReady s _ = _
  rw [whenReady_ready _ hp, if_pos hu]

/-- Settles O10: `OPEN` splits on `in_use`. -/
theorem openAnswers : Obligations.OpenAnswers :=
  fun _ hp => ⟨exec_open_of_closed hp, exec_open_of_open hp⟩

theorem exec_close {s : State} (hs : s.Issuable) : exec .closeSession s =
    .next (if s.inService then { s with held := some s.caller } else s.closeFor s.caller) :=
  whenHolder_issuable _ hs

theorem hostStep_held {s : State} {p : ProcId} (ho : s.hostop = none) (hh : s.held = some p) :
    s.hostStep = .next (s.retryClose p) := by
  simp [State.hostStep, ho, hh]

/-- Settles O11: issued or held, `CLOSE` looks at `in_service` alone. -/
theorem closeCompletesOutsideService : Obligations.CloseCompletesOutsideService := by
  intro s
  refine ⟨fun hs hi => ?_, fun hs hi => ?_, fun p hp ho hh hi => ?_, fun p hp ho hh hi => ?_⟩
  · obtain ⟨_, _, _, _, hheld⟩ := id hs
    rw [exec_close hs, if_neg (by simp [hi])]
    simp only [State.closeFor, State.respond, hheld]
    rfl
  · rw [exec_close hs, if_pos hi]
  · rw [act_host hp, hostStep_held ho hh, State.retryClose, if_pos hi]
  · rw [act_host hp, hostStep_held ho hh, State.retryClose, if_neg (by simp [hi])]
    rfl

/-- Settles O19: both clears are the ring's own `clear` and a plain response. -/
theorem ringClearsResetIndices : Obligations.RingClearsResetIndices :=
  fun _ hs => ⟨whenHolder_issuable _ hs, whenHolder_issuable _ hs⟩

/-- Settles O20: step F1 is a field update that leaves the operation in flight. -/
theorem fifoClearDisablesFirst : Obligations.FifoClearDisablesFirst :=
  fun _ hs => ⟨whenHolder_issuable _ hs, whenHolder_issuable _ hs⟩

theorem countValue_toNat {n c : Nat} (hn : n ≤ c) (hc : c < 4294967295) : (countValue n).toNat = n := by
  rw [countValue, BitVec.toNat_ofNat]
  exact Nat.mod_eq_of_lt (by omega)

/-- Settles O17: a count is at most the capacity, which R5 keeps below 2^32 - 1. -/
theorem queriesAnswerCounts : Obligations.QueriesAnswerCounts := by
  intro s hs hwf
  obtain ⟨_, _, _, _, hTx, _, hRx, _⟩ := hwf
  exact ⟨⟨_, whenHolder_issuable _ hs, countValue_toNat (Nat.sub_le _ _) hTx⟩,
    ⟨_, whenHolder_issuable _ hs, countValue_toNat (itemCount_le _ _) hRx⟩⟩

end Sys2Proof.Laws
end

section
/-! PROOF. `READ` and `WRITE`, one step at a time (43_session_entry.md R132, R133). -/

namespace Sys2Proof.Laws

open Sys2Proof
open Sys2Proof.Machine

theorem readIter_of_done {s : State} (p : ProcId) {w : Nat} (got : List Byte)
    (h : w = 0 ∨ s.rxring.head = s.rxring.tail) :
    s.readIter p w got = { s with hostop := none, responses := s.responses ++ [(p, Response.okBytes got)] } := by
  obtain ⟨_, e⟩ | ⟨hw, hne, _⟩ := readIter_cases s p w got
  · exact e
  · exact (h.elim hw hne).elim

theorem readIter_of_more {s : State} (p : ProcId) {w : Nat} (got : List Byte)
    (hw : w ≠ 0) (hne : s.rxring.head ≠ s.rxring.tail) :
    s.readIter p w got =
      { s with
        rxring := { s.rxring with tail := (s.rxring.tail + 1) % (s.cfg.nRx + 1) }
        hostop := some ⟨p, .read (w - 1) (got ++ [s.rxring.slot s.rxFree s.rxring.tail])⟩ } := by
  obtain ⟨h, _⟩ | ⟨_, _, e⟩ := readIter_cases s p w got
  · exact (h.elim hw hne).elim
  · exact e

theorem exec_read {s : State} (maxBytes : Word) (hs : s.Issuable) :
    exec (.read maxBytes) s = .next (s.readIter s.caller maxBytes.toNat []) :=
  whenHolder_issuable _ hs

/-- Settles O12: the first and every later step is `readIter`, with nothing collected at first. -/
theorem readStartsAndContinues : Obligations.ReadStartsAndContinues := by
  refine ⟨fun s maxBytes hs => ⟨fun h => ?_, fun hw hne => ?_⟩,
    fun s p wanted got hp ho => ⟨fun h => ?_, fun hw hne => ?_⟩⟩
  · obtain ⟨_, _, _, hop, _⟩ := id hs
    rw [exec_read _ hs, readIter_of_done _ _ (h.imp_left fun h0 => by simp [h0]), ← hop]
    rfl
  · have hpos : maxBytes.toNat ≠ 0 := fun h0 => hw (BitVec.eq_of_toNat_eq h0)
    rw [exec_read _ hs, readIter_of_more _ _ hpos hne]
    rfl
  · rw [act_host hp, hostStep_read ho, readIter_of_done _ _ h]
    rfl
  · rw [act_host hp, hostStep_read ho, readIter_of_more _ _ hw hne]

/-- Settles O14: W0 splits on the remaining space. -/
theorem writeStarts : Obligations.WriteStarts := by
  intro s payload hs
  have port : exec (.write payload) s = .next _ := whenHolder_issuable _ hs
  refine ⟨fun hfull => ?_, fun hroom => ?_⟩
  · rw [port, if_pos hfull]
    rfl
  · rw [port, if_neg hroom]
    rfl

/-- Settles O15: W1 splits on the payload and then on the ring (`writeIter_cases`); a stored byte is read back by
`read_write_same` and no other slot is touched. -/
theorem writeStoresOneSampleOrResponds : Obligations.WriteStoresOneSampleOrResponds := by
  refine ⟨fun s p payload k sample hp ho hk => ⟨s.writeIter p payload k, ?_, ?_⟩, fun s p payload hp ho => ?_⟩
  · rw [act_host hp, hostStep_write ho]
  · obtain ⟨hnone, _⟩ | ⟨b, hb, hstep⟩ := writeIter_cases s p payload k
    · rw [hk] at hnone; cases hnone
    · obtain rfl : sample = b := Option.some.inj (hk.symm.trans hb)
      obtain ⟨hfull, e⟩ | ⟨hroom, e⟩ := hstep <;> rw [e]
      · exact ⟨rfl, rfl, fun _ => rfl, fun h => absurd hfull h⟩
      · exact ⟨rfl, rfl, fun h => absurd h hroom,
          fun _ => ⟨rfl, read_write_same _ _ _, fun _ ha => read_write_other _ _ ha⟩⟩
  · rw [act_host hp, hostStep_write ho]
    obtain ⟨_, e⟩ | ⟨_, hb, _⟩ := writeIter_cases s p payload payload.length
    · exact congrArg _ e
    · simp at hb

end Sys2Proof.Laws
end

section
/-! PROOF. Said once: what one step can be. A step of a ready block that stays ready is one of the eight actions below
followed by the latches (R7); beside them there is teardown, and in `Off` the reset event. -/

namespace Sys2Proof.Laws

open Sys2Proof
open Sys2Proof.Machine

/-- A step of a pseudo-operation issues the request of its line, or changes nothing but its own progress (R160). -/
theorem callStep_cases {s t : State} (h : s.callStep = .next t) :
    (∃ p pos i call, s.call = some ⟨p, pos, none⟩ ∧ pos.request s.cfg = some i ∧
      { s with call := call }.issue p (encode i) = .next t) ∨
    ∃ call, t = { s with call := call } := by
  unfold State.callStep at h
  split at h
  · cases h; exact .inr ⟨s.call, rfl⟩
  · next run hcall =>
    obtain ⟨p, pos, since⟩ := run
    split at h
    · next hsince =>
      cases hsince
      unfold State.callIssue at h
      split at h
      · next i hi => exact .inl ⟨p, pos, i, _, hcall, hi, h⟩
      · cases h; exact .inr ⟨_, rfl⟩
    · split at h <;> cases h
      · exact .inr ⟨s.call, rfl⟩
      · exact .inr ⟨_, rfl⟩

/-- What the mover of a step does to a ready block that stays ready. -/
inductive Action (s : State) : State → Prop
  /-- A host process issues a request, itself or as the line of a pseudo-operation. -/
  | request {t : State} (p : ProcId) (r : Request) (call : Option CallRun) (hreq : s.requestOf = some (p, r))
      (h : { s.afterChoice with call := call }.issue p r = .next t) : Action s t
  /-- The operation in flight, or a held `CLOSE`, takes its next step. -/
  | host {t : State} (hm : s.nextMove = .host) (h : s.afterChoice.hostStep = .next t) : Action s t
  | engine (hm : s.nextMove = .engine) : Action s s.afterChoice.engineStep
  | txTick : Action s s.afterChoice.txTick
  | rxTick : Action s s.afterChoice.rxTick
  | clearTx : Action s s.afterChoice.clearTxFifo
  | clearRx : Action s s.afterChoice.clearRxFifo
  /-- The environment moves: the clock, or a pseudo-operation without a request. -/
  | outside (call : Option CallRun) (clock : Bool)
      (hclock : clock = true → s.clockRunning = true ∨ s.nextMove = .clockUp) :
      Action s { s.afterChoice with call := call, clockRunning := clock }

theorem move_action {s t : State} (hs : s.power = .ready) (ht : t.power = .ready)
    (h : s.afterChoice.move s.nextMove = .next t) : Action s t := by
  have same : Action s s.afterChoice := .outside s.call s.clockRunning .inl
  obtain ⟨p, r, hm, hi⟩ | ⟨hm, hi⟩ | ⟨hm, rfl⟩ | ⟨_, rfl⟩ | ⟨_, rfl⟩ | ⟨_, rfl⟩ | ⟨_, rfl⟩ | ⟨hm, rfl⟩ | ⟨_, rfl⟩ |
    ⟨_, rfl⟩ | ⟨p, op, _, rfl⟩ | ⟨hm, hi⟩ := move_ready (s := s.afterChoice) hs ht h
  · exact .request p r s.call (by simp [State.requestOf, hm]) hi
  · exact .host hm hi
  · exact .engine hm
  · exact .txTick
  · exact .rxTick
  · exact .clearTx
  · exact .clearRx
  · exact .outside s.call true fun _ => .inr hm
  · exact .outside s.call false nofun
  · exact same
  · rw [startCall_frame]
    exact .outside _ s.clockRunning .inl
  · obtain ⟨p, pos, i, call, hcall, hpos, hissue⟩ | ⟨call, rfl⟩ := callStep_cases hi
    · refine .request p (encode i) call ?_ hissue
      rw [afterChoice_call] at hcall
      rw [afterChoice_cfg] at hpos
      simp [State.requestOf, hm, hcall, hpos]
    · exact .outside call s.clockRunning .inl

/-- A step of a ready block that stays ready. -/
theorem step_action {s u : State} (hs : s.power = .ready) (hu : u.power = .ready) (h : step s = .next u) :
    ∃ t, Action s t ∧ u = t.settle := by
  obtain ⟨t, _, hm, rfl⟩ := step_next h
  exact ⟨t, move_action hs hu hm, rfl⟩

/-- A move that takes the block from `Ready` to anything else is teardown of an unused one (R202). -/
theorem move_leaves_ready {m : Move} {s t : State} (hs : s.power = .ready) (ht : t.power ≠ .ready)
    (h : s.move m = .next t) : s.usageRef = 0 ∧ t = s.teardown := by
  have hl : s.live = true := by simp [State.live, hs]
  have keeps (hk : t.power = s.power) : s.usageRef = 0 ∧ t = s.teardown := absurd (hk.trans hs) ht
  cases m
  case issue p r => exact keeps (by rw [issue_frame h]; rfl)
  case call => exact keeps (by rw [callStep_frame h]; rfl)
  all_goals simp only [State.move, hl, if_true, Host.Outcome.next.injEq] at h
  case host => exact keeps (by rw [hostStep_frame h]; rfl)
  all_goals subst h
  case teardown =>
    unfold State.teardownEvent at ht ⊢
    split
    · next hc => exact ⟨hc.2, rfl⟩
    · next hc => exact absurd hs (by simpa [hc] using ht)
  case engine => exact keeps (by rw [engineStep_frame])
  case txTick => exact keeps (by rw [txTick_frame])
  case rxTick => exact keeps (by rw [rxTick_frame])
  case clearTx => exact keeps (by rw [clearTxFifo_frame])
  case clearRx => exact keeps (by rw [clearRxFifo_frame])
  case clockUp => exact keeps rfl
  case clockDown => exact keeps rfl
  case resetEvent => exact keeps (by rw [resetEvent_ready hs])
  case beginCall p op => exact keeps (by rw [startCall_frame])

/-- In `Off` nothing but the clock and the host-side sequences moves, until the reset event (R31, R200). -/
theorem move_off {m : Move} {s t : State} (hs : s.power = .off) (h : s.move m = .next t) :
    (∃ call clock, t = { s with call := call, clockRunning := clock }) ∨ t = s.initBlock := by
  have hl : s.live = false := by simp [State.live, hs]
  have noIssue {p : ProcId} {r : Request} {c : Option CallRun} : { s with call := c }.issue p r ≠ .next t := by
    intro hi
    cases hd : decode r with
    | ok i =>
      rw [issue_of_decode _ hd, exec_off i (s := { s with call := c, caller := p }) hs] at hi
      cases hi
    | error e =>
      rw [issue_of_illegal _ hd, whenHolder_off (s := { s with call := c, caller := p }) _ hs] at hi
      cases hi
  cases m
  case issue p r => exact absurd h (noIssue (c := s.call))
  case call =>
    obtain ⟨p, pos, i, call, _, _, hissue⟩ | ⟨call, rfl⟩ := callStep_cases h
    · exact absurd hissue noIssue
    · exact .inl ⟨call, s.clockRunning, rfl⟩
  all_goals simp only [State.move, hl, Bool.false_eq_true, if_false, Host.Outcome.next.injEq] at h
  case host => exact .inl ⟨s.call, s.clockRunning, h.symm⟩
  case engine => exact .inl ⟨s.call, s.clockRunning, h.symm⟩
  case txTick => exact .inl ⟨s.call, s.clockRunning, by rw [← h, State.txTick]; simp [State.txTickEnabled, hl]⟩
  case rxTick => exact .inl ⟨s.call, s.clockRunning, by rw [← h, State.rxTick]; simp [State.rxTickEnabled, hl]⟩
  case clearTx => exact .inl ⟨s.call, s.clockRunning, by rw [← h, State.clearTxFifo]; simp [hl]⟩
  case clearRx => exact .inl ⟨s.call, s.clockRunning, by rw [← h, State.clearRxFifo]; simp [hl]⟩
  case clockUp => exact .inl ⟨s.call, true, h.symm⟩
  case clockDown => exact .inl ⟨s.call, false, h.symm⟩
  case resetEvent => exact .inr (by rw [← h, State.resetEvent, if_pos hs])
  case teardown => exact .inl ⟨s.call, s.clockRunning, by rw [← h, State.teardownEvent, if_neg (by simp [hs])]⟩
  case beginCall p op => exact .inl ⟨_, s.clockRunning, h.symm.trans (startCall_frame s p op)⟩

end Sys2Proof.Laws
end

section
/-! PROOF. The invariant (10_state.md R33). It is carried through the mover's own action without its latch clause
(`Unlatched`), which the latches of R21 and R22 put back; one lemma per agent says that the action keeps it. -/

namespace Sys2Proof.Laws

open Sys2Proof
open Sys2Proof.Machine

/-- The invariant without the clause that the latches establish: what every agent's own action keeps. -/
structure Unlatched (s : State) : Prop where
  config : s.cfg.wf
  storage : s.StorageInv
  counters : s.CounterInv
  session : s.SessionInv
  service : s.ServiceInv
  host : s.HostInv

theorem Unlatched.of_inv {s : State} (h : s.Inv) : Unlatched s :=
  ⟨h.config, h.storage, h.counters, h.session, h.service, h.host⟩

/-! ### The latches put the last clause back -/

theorem irqLine_settle {s : State} (h : s.irqLine = true) : s.settle.irqLine = true := by
  rw [settle_irqLine]
  simp only [State.irqLine, Bool.or_eq_true, State.latchedTxw, State.latchedRxr] at h ⊢
  exact h.imp .inl .inl

theorem risingEdge_of_irqLine {s : State} (h : s.irqLine = true) : s.risingEdge = false := by
  simp [State.risingEdge, h]

theorem settle_service {s : State} (h : s.ServiceInv) : s.settle.ServiceInv := by
  obtain ⟨hidle, hi, hoff, hack, hpend⟩ := h
  refine ⟨hidle, hi, fun hisr => ?_, fun hbefore => ?_, fun hisr hafter => ?_⟩
  · replace hisr : s.isrRegistered = false := hisr
    simp [State.risingEdge, hisr, hoff hisr]
  · obtain ⟨hline, hsvc⟩ := hack hbefore
    exact ⟨irqLine_settle hline, by simp [hsvc, risingEdge_of_irqLine hline]⟩
  · have hsvc : s.svcPending = s.irqLine := hpend hisr hafter
    cases hline : s.irqLine with
    | true => simp [hsvc, hline, irqLine_settle hline]
    | false =>
      replace hisr : s.isrRegistered = true := hisr
      simp [hsvc, hline, State.risingEdge, hisr, settle_irqLine]

theorem settle_latch (s : State) : s.settle.LatchInv := fun hp =>
  ⟨fun hlow hen => (settle_intstcTxw_iff (s := s) hp).mpr (.inr ⟨hlow, hen⟩),
    fun hhigh hen => (settle_intstcRxr_iff (s := s) hp).mpr (.inr ⟨hhigh, hen⟩)⟩

theorem Unlatched.settle {s : State} (h : Unlatched s) : s.settle.Inv :=
  ⟨h.config, h.storage, h.counters, h.session, settle_service h.service, h.host, settle_latch s⟩

/-! ### The host port -/

/-- Process `p` holds the session, no `CLOSE` is held and no FIFO clear is requested: where a request or a stream
operation of `p` is. -/
structure PortOf (p : ProcId) (s : State) : Prop where
  holder : s.holder = some p
  held : s.held = none
  txclr : s.txclrPending = false
  rxclr : s.rxclrPending = false

theorem Unlatched.not_txclr {s : State} (h : Unlatched s) (hno : s.inTxClear true = false) :
    s.txclrPending = false :=
  Bool.eq_false_iff.mpr fun hc => by simp [h.host.2.2.2.2.1 hc] at hno

theorem Unlatched.not_rxclr {s : State} (h : Unlatched s) (hno : s.inRxClear true = false) :
    s.rxclrPending = false :=
  Bool.eq_false_iff.mpr fun hc => by simp [h.host.2.2.2.2.2 hc] at hno

theorem Unlatched.port_of_issuable {s : State} (h : Unlatched s) (hs : s.Issuable) : PortOf s.caller s := by
  obtain ⟨_, _, hholder, hop, hheld⟩ := hs
  exact ⟨hholder, hheld, h.not_txclr (by simp [State.inTxClear, hop]), h.not_rxclr (by simp [State.inRxClear, hop])⟩

theorem Unlatched.holder_of_hostop {s : State} (h : Unlatched s) {op : HostOp} (ho : s.hostop = some op) :
    s.holder = some op.proc ∧ s.held = none := by
  simpa [ho] using h.host.1 (by simp [ho])

/-- With no operation in flight the clause on the port needs only the held `CLOSE` and no requested clear. -/
theorem hostInv_of_idle {s : State} (ho : s.hostop = none) (hheld : s.held.isSome = true → s.holder = s.held)
    (htx : s.txclrPending = false) (hrx : s.rxclrPending = false) : s.HostInv := by
  simp only [State.HostInv, State.inTxClear, State.inRxClear, ho, htx, hrx]
  simpa using hheld

/-- With an operation of `p` in flight it needs its direction disabled, and a clear requested only at F3. -/
theorem hostInv_of_flight {s : State} {p : ProcId} {g : Progress} (ho : s.hostop = some ⟨p, g⟩)
    (hholder : s.holder = some p) (hheld : s.held = none) (htx : s.inTxClear false = true → s.csTxon = false)
    (hrx : s.inRxClear false = true → s.csRxon = false) (htp : s.txclrPending = true → s.inTxClear true = true)
    (hrp : s.rxclrPending = true → s.inRxClear true = true) : s.HostInv :=
  ⟨fun _ => by simp [ho, hholder, hheld], by simp [hheld], htx, hrx, htp, hrp⟩

/-- Whatever a request answers, and whatever it does to the enables. -/
theorem Unlatched.answer {s : State} {p : ProcId} (h : Unlatched s) (hport : PortOf p s) (en rxon txon : Bool)
    (responses : List (ProcId × Response)) :
    Unlatched { s with csEn := en, csRxon := rxon, csTxon := txon, hostop := none, responses := responses } :=
  ⟨h.config, h.storage, h.counters, h.session, h.service,
    hostInv_of_idle rfl (by simp [hport.held]) hport.txclr hport.rxclr⟩

/-- A stream operation of `p` is in flight. -/
theorem Unlatched.stream {s : State} {p : ProcId} (h : Unlatched s) (hport : PortOf p s) (g : Progress)
    (hg : (∃ w got, g = .read w got) ∨ ∃ payload k, g = .write payload k) :
    Unlatched { s with hostop := some ⟨p, g⟩ } := by
  refine ⟨h.config, h.storage, h.counters, h.session, h.service,
    hostInv_of_flight rfl hport.holder hport.held ?_ ?_ (by simp [hport.txclr]) (by simp [hport.rxclr])⟩
  · obtain ⟨_, _, rfl⟩ | ⟨_, _, rfl⟩ := hg <;> simp [State.inTxClear]
  · obtain ⟨_, _, rfl⟩ | ⟨_, _, rfl⟩ := hg <;> simp [State.inRxClear]

/-- The transmit ring is replaced by another good one. -/
theorem Unlatched.setTxring {s : State} (h : Unlatched s) {r : Ring} (hok : r.Ok s.cfg.nTx)
    (hw : r.Written s.cfg.nTx) : Unlatched { s with txring := r } :=
  ⟨h.config, ⟨hok, hw, h.storage.2.2⟩, h.counters, h.session, h.service, h.host⟩

/-- The receive ring is replaced by another good one. -/
theorem Unlatched.setRxring {s : State} (h : Unlatched s) {r : Ring} (hok : r.Ok s.cfg.nRx)
    (hw : r.Written s.cfg.nRx) : Unlatched { s with rxring := r } :=
  ⟨h.config, ⟨h.storage.1, h.storage.2.1, hok, hw, h.storage.2.2.2.2⟩, h.counters, h.session, h.service, h.host⟩

theorem Unlatched.txring_written {s : State} (h : Unlatched s) (sample : Byte)
    (hroom : (s.txring.head + 1) % (s.cfg.nTx + 1) ≠ s.txring.tail) :
    Unlatched { s with txring :=
      { s.txring with
        slots := s.txring.slots.write s.txring.head sample
        head := (s.txring.head + 1) % (s.cfg.nTx + 1) } } := by
  obtain ⟨hok, hw, _⟩ := h.storage
  exact h.setTxring (write_ok sample hok) (write_written sample hok.1 hok.2.1 hroom hw)

theorem Unlatched.txring_read {s : State} (h : Unlatched s) (hne : s.txring.head ≠ s.txring.tail) :
    Unlatched { s with txring := { s.txring with tail := (s.txring.tail + 1) % (s.cfg.nTx + 1) } } := by
  obtain ⟨hok, hw, _⟩ := h.storage
  exact h.setTxring (read_ok hok) (read_written hok.1 hok.2.1 hne hw)

theorem Unlatched.rxring_written {s : State} (h : Unlatched s) (sample : Byte)
    (hroom : (s.rxring.head + 1) % (s.cfg.nRx + 1) ≠ s.rxring.tail) :
    Unlatched { s with rxring :=
      { s.rxring with
        slots := s.rxring.slots.write s.rxring.head sample
        head := (s.rxring.head + 1) % (s.cfg.nRx + 1) } } := by
  obtain ⟨_, _, hok, hw, _⟩ := h.storage
  exact h.setRxring (write_ok sample hok) (write_written sample hok.1 hok.2.1 hroom hw)

theorem Unlatched.rxring_read {s : State} (h : Unlatched s) (hne : s.rxring.head ≠ s.rxring.tail) :
    Unlatched { s with rxring := { s.rxring with tail := (s.rxring.tail + 1) % (s.cfg.nRx + 1) } } := by
  obtain ⟨_, _, hok, hw, _⟩ := h.storage
  exact h.setRxring (read_ok hok) (read_written hok.1 hok.2.1 hne hw)

/-! ### The session -/

/-- A closed session has nothing on the port and no running service routine. -/
theorem Unlatched.closed {s : State} (h : Unlatched s) (hu : s.inUse = false) :
    s.hostop = none ∧ s.held = none ∧ s.inService = false := by
  obtain ⟨_, _, hholder, hserv⟩ := h.session
  have hnone : s.holder = none := by simpa [hu] using hholder
  refine ⟨?_, ?_, ?_⟩
  · cases ho : s.hostop with
    | none => rfl
    | some op => have := (h.holder_of_hostop ho).1; rw [hnone] at this; cases this
  · cases hh : s.held with
    | none => rfl
    | some p => have := h.host.2.1 (by simp [hh]); rw [hnone, hh] at this; cases this
  · exact Bool.eq_false_iff.mpr fun hs => by simp [hserv hs] at hu

theorem Unlatched.openFor {s : State} (h : Unlatched s) (p : ProcId) (hu : s.inUse = false) :
    Unlatched (s.openFor p) := by
  obtain ⟨hop, hheld, hserv⟩ := h.closed hu
  obtain ⟨_, husage, _, _⟩ := h.session
  obtain ⟨hidle, hi, _⟩ := h.service
  have hphase : s.eng.phase = .idle := hidle.mpr hserv
  have hthr : 0 < s.cfg.threshold := h.config.2.1
  refine ⟨h.config, h.storage, ⟨hthr, hthr⟩, ⟨rfl, ?_, rfl, fun _ => rfl⟩,
    ⟨hidle, hi, nofun, fun hb => ?_, fun _ _ => rfl⟩,
    hostInv_of_idle hop (by simp [State.openFor, hheld]) (h.not_txclr (by simp [State.inTxClear, hop]))
      (h.not_rxclr (by simp [State.inRxClear, hop]))⟩
  · simp [State.openFor, husage, hu]
  · simp [State.openFor, hphase, Phase.beforeAck] at hb

theorem Unlatched.closeFor {s : State} (h : Unlatched s) (p : ProcId) (hop : s.hostop = none)
    (hu : s.inUse = true) (hserv : s.inService = false) : Unlatched (s.closeFor p) := by
  obtain ⟨_, husage, _, _⟩ := h.session
  obtain ⟨hidle, hi, _⟩ := h.service
  have hphase : s.eng.phase = .idle := hidle.mpr hserv
  have hthr : 0 < s.cfg.threshold := h.config.2.1
  refine ⟨h.config, h.storage, ⟨hthr, hthr⟩, ⟨rfl, ?_, rfl, fun hs => ?_⟩,
    ⟨hidle, hi, fun _ => rfl, fun hb => ?_, nofun⟩,
    hostInv_of_idle hop nofun (h.not_txclr (by simp [State.inTxClear, hop]))
      (h.not_rxclr (by simp [State.inRxClear, hop]))⟩
  · simp [State.closeFor, husage, hu]
  · exact absurd (hserv.symm.trans hs) nofun
  · simp [State.closeFor, hphase, Phase.beforeAck] at hb

/-! ### The operations -/

theorem Unlatched.readIter {s : State} {p : ProcId} (h : Unlatched s) (hport : PortOf p s) (w : Nat)
    (got : List Byte) : Unlatched (s.readIter p w got) := by
  obtain ⟨_, e⟩ | ⟨_, hne, e⟩ := readIter_cases s p w got <;> rw [e]
  · exact h.answer hport s.csEn s.csRxon s.csTxon _
  · exact (h.rxring_read hne).stream ⟨hport.holder, hport.held, hport.txclr, hport.rxclr⟩ _ (.inl ⟨_, _, rfl⟩)

theorem Unlatched.writeIter {s : State} {p : ProcId} (h : Unlatched s) (hport : PortOf p s)
    (payload : List Byte) (k : Nat) : Unlatched (s.writeIter p payload k) := by
  obtain ⟨_, e⟩ | ⟨sample, _, ⟨_, e⟩ | ⟨hroom, e⟩⟩ := writeIter_cases s p payload k <;> rw [e]
  · exact h.answer hport s.csEn s.csRxon s.csTxon _
  · exact h.stream hport _ (.inr ⟨_, _, rfl⟩)
  · exact (h.txring_written sample hroom).stream ⟨hport.holder, hport.held, hport.txclr, hport.rxclr⟩ _
      (.inr ⟨_, _, rfl⟩)

/-- A FIFO clear of the transmit direction is in flight, the direction disabled. -/
theorem Unlatched.clrTx {s : State} {p : ProcId} (h : Unlatched s) (hholder : s.holder = some p)
    (hheld : s.held = none) (hrx : s.rxclrPending = false) (next : ClearStep) (saved pending : Bool)
    (hp : pending = true → next = .f3) :
    Unlatched { s with csTxon := false, txclrPending := pending, hostop := some ⟨p, .clrTx next saved⟩ } :=
  ⟨h.config, h.storage, h.counters, h.session, h.service,
    hostInv_of_flight rfl hholder hheld (fun _ => rfl) nofun (fun hc => by simp [State.inTxClear, hp hc])
      (fun hc => by simp [hrx] at hc)⟩

/-- A FIFO clear of the receive direction is in flight, the direction disabled. -/
theorem Unlatched.clrRx {s : State} {p : ProcId} (h : Unlatched s) (hholder : s.holder = some p)
    (hheld : s.held = none) (htx : s.txclrPending = false) (next : ClearStep) (saved pending : Bool)
    (hp : pending = true → next = .f3) :
    Unlatched { s with csRxon := false, rxclrPending := pending, hostop := some ⟨p, .clrRx next saved⟩ } :=
  ⟨h.config, h.storage, h.counters, h.session, h.service,
    hostInv_of_flight rfl hholder hheld nofun (fun _ => rfl) (fun hc => by simp [htx] at hc)
      (fun hc => by simp [State.inRxClear, hp hc])⟩

theorem Unlatched.setEnable {s : State} (h : Unlatched s) (hs : s.Issuable) (f : CsField)
    (hf : f = .en ∨ f = .txon ∨ f = .rxon) (arg : Word) : Unlatched (s.setEnable f arg) := by
  have hport := h.port_of_issuable hs
  obtain ⟨_, _, _, hop, _⟩ := hs
  have hshape : s.setEnable f arg =
      { s with
        csEn := (s.setEnable f arg).csEn
        csRxon := (s.setEnable f arg).csRxon
        csTxon := (s.setEnable f arg).csTxon
        hostop := none
        responses := (s.setEnable f arg).responses } :=
    (setEnable_frame s f arg hf).trans (by rw [← hop])
  rw [hshape]
  exact h.answer hport _ _ _ _

/-- Every operation keeps the invariant. -/
theorem Unlatched.exec {i : Instr} {s t : State} (h : Unlatched s) (he : exec i s = .next t) : Unlatched t := by
  by_cases hopen : i = .openSession
  · subst hopen
    have hp := exec_next_ready he
    cases hu : s.inUse with
    | false =>
      rw [exec_open_of_closed hp hu] at he
      cases he
      have ho := h.openFor s.caller hu
      exact ⟨ho.config, ho.storage, ho.counters, ho.session, ho.service, ho.host⟩
    | true =>
      rw [exec_open_of_open hp hu] at he
      cases he
      exact ⟨h.config, h.storage, h.counters, h.session, h.service, h.host⟩
  have hs := exec_next_issuable he hopen
  have hport := h.port_of_issuable hs
  have hissue := hs
  obtain ⟨_, hu, hholder, hop, hheld⟩ := hissue
  have answer (responses : List (ProcId × Response)) : Unlatched { s with responses := responses } := by
    have := h.answer hport s.csEn s.csRxon s.csTxon responses
    rwa [← hop] at this
  cases i
  case openSession => exact absurd rfl hopen
  all_goals obtain ⟨rfl, _⟩ := whenHolder_next he
  case closeSession =>
    split
    · exact ⟨h.config, h.storage, h.counters, h.session, h.service,
        hostInv_of_idle hop (fun _ => hholder) hport.txclr hport.rxclr⟩
    · next hserv => exact h.closeFor s.caller hop hu (by simpa using hserv)
  case read => exact h.readIter hport _ _
  case write =>
    split
    · exact answer _
    · exact h.stream hport _ (.inr ⟨_, _, rfl⟩)
  case getTxSpace => exact answer _
  case getRxCount => exact answer _
  case clrTxFifo => exact h.clrTx hholder hheld hport.rxclr .f2 s.csTxon s.txclrPending (by simp [hport.txclr])
  case clrRxFifo => exact h.clrRx hholder hheld hport.txclr .f2 s.csRxon s.rxclrPending (by simp [hport.rxclr])
  case setEn => exact h.setEnable hs .en (.inl rfl) _
  case setTxEn => exact h.setEnable hs .txon (.inr (.inl rfl)) _
  case setRxEn => exact h.setEnable hs .rxon (.inr (.inr rfl)) _
  case clrTxRing =>
    obtain ⟨hok, _⟩ := h.storage
    have hc := h.setTxring (clear_ok hok) (clear_written _ _)
    exact ⟨hc.config, hc.storage, hc.counters, hc.session, hc.service, hc.host⟩
  case clrRxRing =>
    obtain ⟨_, _, hok, _⟩ := h.storage
    have hc := h.setRxring (clear_ok hok) (clear_written _ _)
    exact ⟨hc.config, hc.storage, hc.counters, hc.session, hc.service, hc.host⟩

theorem Unlatched.issue {p : ProcId} {r : Request} {s t : State} (h : Unlatched s) (hi : s.issue p r = .next t) :
    Unlatched t := by
  have hcaller : Unlatched { s with caller := p } :=
    ⟨h.config, h.storage, h.counters, h.session, h.service, h.host⟩
  cases hd : decode r with
  | ok i => exact hcaller.exec (issue_of_decode s hd ▸ hi)
  | error e =>
    rw [issue_of_illegal s hd] at hi
    obtain ⟨rfl, _⟩ := whenHolder_next hi
    exact ⟨h.config, h.storage, h.counters, h.session, h.service, h.host⟩

/-! ### The operation in flight -/

theorem Unlatched.port_of_stream {s : State} {p : ProcId} {g : Progress} (h : Unlatched s)
    (ho : s.hostop = some ⟨p, g⟩) (hg : (∃ w got, g = .read w got) ∨ ∃ payload k, g = .write payload k) :
    PortOf p s := by
  obtain ⟨hholder, hheld⟩ := h.holder_of_hostop ho
  obtain ⟨_, _, rfl⟩ | ⟨_, _, rfl⟩ := hg <;>
    exact ⟨hholder, hheld, h.not_txclr (by simp [State.inTxClear, ho]), h.not_rxclr (by simp [State.inRxClear, ho])⟩

/-- What the invariant says of a transmit clear in flight. -/
theorem Unlatched.of_clrTx {s : State} {p : ProcId} {next : ClearStep} {saved : Bool} (h : Unlatched s)
    (ho : s.hostop = some ⟨p, .clrTx next saved⟩) :
    s.holder = some p ∧ s.held = none ∧ s.csTxon = false ∧ s.rxclrPending = false ∧
      (s.txclrPending = true → next = .f3) := by
  obtain ⟨hholder, hheld⟩ := h.holder_of_hostop ho
  obtain ⟨_, _, htx, _, htp, _⟩ := h.host
  exact ⟨hholder, hheld, htx (by simp [State.inTxClear, ho]), h.not_rxclr (by simp [State.inRxClear, ho]),
    fun hc => by simpa [State.inTxClear, ho] using htp hc⟩

/-- What the invariant says of a receive clear in flight. -/
theorem Unlatched.of_clrRx {s : State} {p : ProcId} {next : ClearStep} {saved : Bool} (h : Unlatched s)
    (ho : s.hostop = some ⟨p, .clrRx next saved⟩) :
    s.holder = some p ∧ s.held = none ∧ s.csRxon = false ∧ s.txclrPending = false ∧
      (s.rxclrPending = true → next = .f3) := by
  obtain ⟨hholder, hheld⟩ := h.holder_of_hostop ho
  obtain ⟨_, _, _, hrx, _, hrp⟩ := h.host
  exact ⟨hholder, hheld, hrx (by simp [State.inRxClear, ho]), h.not_txclr (by simp [State.inTxClear, ho]),
    fun hc => by simpa [State.inRxClear, ho] using hrp hc⟩

theorem clearTxStep_cases {s t : State} {p : ProcId} {next : ClearStep} {saved : Bool}
    (h : s.clearTxStep p next saved = .next t) :
    (next = .f2 ∧ s.csTxon = false ∧
      t = { s with txclrPending := true, hostop := some ⟨p, .clrTx .f3 saved⟩ }) ∨
    (next = .f3 ∧ s.txclrPending = true ∧ t = s) ∨
    (next = .f3 ∧ s.txclrPending = false ∧ t = { s with hostop := some ⟨p, .clrTx .f4 saved⟩ }) ∨
    (next = .f4 ∧ t =
      { s with
        csTxon := s.csTxon || saved
        hostop := none
        responses := s.responses ++ [(p, Response.okPlain)] }) := by
  cases next with
  | f2 =>
    rw [State.clearTxStep] at h
    split at h
    · cases h
    · next hoff => cases h; exact .inl ⟨rfl, by simpa using hoff, by simp [State.setOp]⟩
  | f3 =>
    obtain rfl := Host.Outcome.next.inj h
    by_cases hp : s.txclrPending = true
    · exact .inr (.inl ⟨rfl, hp, if_pos hp⟩)
    · exact .inr (.inr (.inl ⟨rfl, by simpa using hp, if_neg hp⟩))
  | f4 =>
    refine .inr (.inr (.inr ⟨rfl, ?_⟩))
    cases saved <;> cases h <;> simp [State.respond, State.endOp]

theorem clearRxStep_cases {s t : State} {p : ProcId} {next : ClearStep} {saved : Bool}
    (h : s.clearRxStep p next saved = .next t) :
    (next = .f2 ∧ s.csRxon = false ∧
      t = { s with rxclrPending := true, hostop := some ⟨p, .clrRx .f3 saved⟩ }) ∨
    (next = .f3 ∧ s.rxclrPending = true ∧ t = s) ∨
    (next = .f3 ∧ s.rxclrPending = false ∧ t = { s with hostop := some ⟨p, .clrRx .f4 saved⟩ }) ∨
    (next = .f4 ∧ t =
      { s with
        csRxon := s.csRxon || saved
        hostop := none
        responses := s.responses ++ [(p, Response.okPlain)] }) := by
  cases next with
  | f2 =>
    rw [State.clearRxStep] at h
    split at h
    · cases h
    · next hoff => cases h; exact .inl ⟨rfl, by simpa using hoff, by simp [State.setOp]⟩
  | f3 =>
    obtain rfl := Host.Outcome.next.inj h
    by_cases hp : s.rxclrPending = true
    · exact .inr (.inl ⟨rfl, hp, if_pos hp⟩)
    · exact .inr (.inr (.inl ⟨rfl, by simpa using hp, if_neg hp⟩))
  | f4 =>
    refine .inr (.inr (.inr ⟨rfl, ?_⟩))
    cases saved <;> cases h <;> simp [State.respond, State.endOp]

theorem Unlatched.clearTxStep {s t : State} {p : ProcId} {next : ClearStep} {saved : Bool} (h : Unlatched s)
    (ho : s.hostop = some ⟨p, .clrTx next saved⟩) (hstep : s.clearTxStep p next saved = .next t) : Unlatched t := by
  obtain ⟨hholder, hheld, hoff, hrx, hp⟩ := h.of_clrTx ho
  have flight (next : ClearStep) (pending : Bool) (hp : pending = true → next = .f3) :
      Unlatched { s with txclrPending := pending, hostop := some ⟨p, .clrTx next saved⟩ } := by
    have := h.clrTx hholder hheld hrx next saved pending hp
    rwa [← hoff] at this
  obtain ⟨_, _, rfl⟩ | ⟨_, _, rfl⟩ | ⟨_, hdone, rfl⟩ | ⟨hf4, rfl⟩ := clearTxStep_cases hstep
  · exact flight .f3 true fun _ => rfl
  · exact h
  · exact flight .f4 s.txclrPending (by simp [hdone])
  · have htx : s.txclrPending = false := Bool.eq_false_iff.mpr fun hc => absurd (hf4.symm.trans (hp hc)) nofun
    exact h.answer ⟨hholder, hheld, htx, hrx⟩ s.csEn s.csRxon _ _

theorem Unlatched.clearRxStep {s t : State} {p : ProcId} {next : ClearStep} {saved : Bool} (h : Unlatched s)
    (ho : s.hostop = some ⟨p, .clrRx next saved⟩) (hstep : s.clearRxStep p next saved = .next t) : Unlatched t := by
  obtain ⟨hholder, hheld, hoff, htx, hp⟩ := h.of_clrRx ho
  have flight (next : ClearStep) (pending : Bool) (hp : pending = true → next = .f3) :
      Unlatched { s with rxclrPending := pending, hostop := some ⟨p, .clrRx next saved⟩ } := by
    have := h.clrRx hholder hheld htx next saved pending hp
    rwa [← hoff] at this
  obtain ⟨_, _, rfl⟩ | ⟨_, _, rfl⟩ | ⟨_, hdone, rfl⟩ | ⟨hf4, rfl⟩ := clearRxStep_cases hstep
  · exact flight .f3 true fun _ => rfl
  · exact h
  · exact flight .f4 s.rxclrPending (by simp [hdone])
  · have hrx : s.rxclrPending = false := Bool.eq_false_iff.mpr fun hc => absurd (hf4.symm.trans (hp hc)) nofun
    exact h.answer ⟨hholder, hheld, htx, hrx⟩ s.csEn _ s.csTxon _

theorem Unlatched.hostStep {s t : State} (h : Unlatched s) (hstep : s.hostStep = .next t) : Unlatched t := by
  cases ho : s.hostop with
  | some op =>
    obtain ⟨p, g⟩ := op
    cases g with
    | read w got =>
      cases (hostStep_read ho).symm.trans hstep
      exact h.readIter (h.port_of_stream ho (.inl ⟨_, _, rfl⟩)) w got
    | write payload k =>
      cases (hostStep_write ho).symm.trans hstep
      exact h.writeIter (h.port_of_stream ho (.inr ⟨_, _, rfl⟩)) payload k
    | clrTx next saved => exact h.clearTxStep ho ((hostStep_clrTx ho).symm.trans hstep)
    | clrRx next saved => exact h.clearRxStep ho ((hostStep_clrRx ho).symm.trans hstep)
  | none =>
    cases hh : s.held with
    | none =>
      simp only [State.hostStep, ho, hh, Host.Outcome.next.injEq] at hstep
      exact hstep ▸ h
    | some p =>
      cases (hostStep_held ho hh).symm.trans hstep
      unfold State.retryClose
      split
      · exact h
      · next hserv =>
        have hu : s.inUse = true := by
          rw [← h.session.2.2.1, h.host.2.1 (by simp [hh])]
          simp [hh]
        exact h.closeFor p ho hu (by simpa using hserv)

/-! ### The Transfer Engine -/

/-- The engine moves on before its acknowledge. -/
theorem Unlatched.goOn {s : State} (h : Unlatched s) (hb : s.eng.phase.beforeAck = true) (p : Phase) (i : Nat)
    (hp : p.beforeAck = true) (hi : i ≤ s.cfg.batchLimit) : Unlatched { s with eng := ⟨p, i⟩ } := by
  obtain ⟨hidle, _, hoff, hack, _⟩ := h.service
  refine ⟨h.config, h.storage, h.counters, h.session,
    ⟨iff_of_false ?_ ?_, hi, hoff, fun _ => hack hb, fun _ ha => absurd (hp.symm.trans ha) nofun⟩, h.host⟩
  · rintro rfl; cases hp
  · intro hserv
    rw [hidle.mpr hserv] at hb
    cases hb

/-- The transmit side after a pull or a trip: the FIFO within its bound, the counter below the threshold. -/
theorem Unlatched.setTx {s : State} (h : Unlatched s) {fifo : List Word} (n : Nat)
    (hf : fifo.length ≤ s.cfg.hwFifoDepth) (hn : n < s.cfg.threshold) (txon : Bool)
    (hon : txon = true → s.csTxon = true) :
    Unlatched { s with csTxon := txon, txfifo := fifo, txUnderflow := n } := by
  obtain ⟨h1, h2, h3, h4, _, h6⟩ := h.storage
  obtain ⟨hop, hheld, htx, hrest⟩ := h.host
  exact ⟨h.config, ⟨h1, h2, h3, h4, hf, h6⟩, ⟨hn, h.counters.2⟩, h.session, h.service,
    ⟨hop, hheld, fun hc => Bool.eq_false_iff.mpr fun ht => absurd (hon ht) (by simp [htx hc]), hrest⟩⟩

/-- The receive side after an arrival, a store or a trip. -/
theorem Unlatched.setRx {s : State} (h : Unlatched s) {fifo : List Word} (n : Nat)
    (hf : fifo.length ≤ s.cfg.hwFifoDepth) (hn : n < s.cfg.threshold) (rxon : Bool)
    (hon : rxon = true → s.csRxon = true) (draws : Nat) :
    Unlatched { s with csRxon := rxon, rxfifo := fifo, rxOverflow := n, draws := draws } := by
  obtain ⟨h1, h2, h3, h4, h5, _⟩ := h.storage
  obtain ⟨hop, hheld, htx, hrx, hrest⟩ := h.host
  exact ⟨h.config, ⟨h1, h2, h3, h4, h5, hf⟩, ⟨h.counters.1, hn⟩, h.session, h.service,
    ⟨hop, hheld, htx, fun hc => Bool.eq_false_iff.mpr fun ht => absurd (hon ht) (by simp [hrx hc]), hrest⟩⟩

theorem Unlatched.countUnderflow {s : State} (h : Unlatched s) : Unlatched s.countUnderflow := by
  obtain ⟨_, _, _, _, hf, _⟩ := h.storage
  obtain ⟨hlow, e⟩ | ⟨_, e⟩ := countUnderflow_cases s hf <;> rw [e]
  · exact h.setTx _ hf hlow s.csTxon id
  · exact h.setTx 0 (List.length_take_le _ _) h.config.2.1 false nofun

theorem Unlatched.countOverflow {s : State} (h : Unlatched s) : Unlatched s.countOverflow := by
  obtain ⟨_, _, _, _, _, hf⟩ := h.storage
  obtain ⟨hlow, e⟩ | ⟨_, e⟩ := countOverflow_cases s <;> rw [e]
  · exact h.setRx _ hf hlow s.csRxon id s.draws
  · exact h.setRx 0 (by rw [List.length_drop]; omega) h.config.2.1 false nofun _

/-- Accounting does not move the engine. -/
theorem countUnderflow_eng (s : State) : s.countUnderflow.eng = s.eng := by
  simp only [State.countUnderflow]
  split <;> rfl

theorem countOverflow_eng (s : State) : s.countOverflow.eng = s.eng := by
  simp only [State.countOverflow]
  split <;> rfl

theorem Unlatched.s2loop {s : State} (h : Unlatched s) (hph : s.eng.phase = .s2loop) : Unlatched s.s2loop := by
  have hb : s.eng.phase.beforeAck = true := by rw [hph]; rfl
  obtain ⟨_, e⟩ | ⟨hi, hf, hne, e⟩ | ⟨_, _, _, e⟩ := s2loop_cases s <;> rw [e]
  · exact h.goOn hb .s3test 0 rfl (Nat.zero_le _)
  · have hpull := (h.txring_read hne).setTx s.txUnderflow
      (fifo := s.txfifo ++ [fifoWordOf (s.txring.slot s.txFree s.txring.tail)]) (by simpa using hf)
      h.counters.1 s.csTxon id
    exact hpull.goOn hb .s2loop (s.eng.i + 1) rfl hi
  · exact h.countUnderflow.goOn (by rwa [countUnderflow_eng]) .s3test 0 rfl (Nat.zero_le _)

theorem Unlatched.s3loop {s : State} (h : Unlatched s) (hph : s.eng.phase = .s3loop) : Unlatched s.s3loop := by
  have hb : s.eng.phase.beforeAck = true := by rw [hph]; rfl
  obtain ⟨_, e⟩ | ⟨w, rest, hfifo, hi, hcase⟩ := s3loop_cases s
  · rw [e]
    exact h.goOn hb .s4 0 rfl (Nat.zero_le _)
  · have hrest : rest.length ≤ s.cfg.hwFifoDepth := by
      obtain ⟨_, _, _, _, _, hf⟩ := h.storage
      rw [hfifo, List.length_cons] at hf
      omega
    have hpop : Unlatched { s with rxfifo := rest } := h.setRx s.rxOverflow hrest h.counters.2 s.csRxon id s.draws
    obtain ⟨hroom, e⟩ | ⟨_, e⟩ := hcase <;> rw [e]
    · exact (hpop.rxring_written (sampleOf w) hroom).goOn hb .s3loop (s.eng.i + 1) rfl hi
    · exact hpop.countOverflow.goOn (by rwa [countOverflow_eng]) .s4 0 rfl (Nat.zero_le _)

/-- S4: both flags fall, and with them the line (R122). -/
theorem acknowledge_eq (s : State) :
    s.acknowledge = { s with intstcTxw := false, intstcRxr := false, eng := ⟨.s5, 0⟩ } := by
  simp [State.acknowledge, State.writeRegister, State.writeIntstc]

theorem Unlatched.acknowledge {s : State} (h : Unlatched s) (hph : s.eng.phase = .s4) :
    Unlatched s.acknowledge := by
  obtain ⟨hidle, _, hoff, hack, _⟩ := h.service
  have hsvc : s.svcPending = false := (hack (by rw [hph]; rfl)).2
  have hserv : s.inService ≠ false := fun hs => by simp [hidle.mpr hs] at hph
  rw [acknowledge_eq]
  exact ⟨h.config, h.storage, h.counters, h.session,
    ⟨iff_of_false nofun hserv, Nat.zero_le _, hoff, nofun, fun _ _ => hsvc⟩, h.host⟩

theorem Unlatched.leaveService {s : State} (h : Unlatched s) (hph : s.eng.phase = .s5) :
    Unlatched s.leaveService := by
  obtain ⟨_, _, hoff, _, hpend⟩ := h.service
  obtain ⟨hisr, husage, hholder, _⟩ := h.session
  exact ⟨h.config, h.storage, h.counters, ⟨hisr, husage, hholder, nofun⟩,
    ⟨iff_of_true rfl rfl, Nat.zero_le _, hoff, nofun, fun hr _ => hpend hr (by rw [hph]; rfl)⟩, h.host⟩

theorem Unlatched.enterService {s : State} (h : Unlatched s) (hph : s.eng.phase = .idle)
    (hinv : s.invocable = true) : Unlatched s.enterService := by
  simp only [State.invocable, Bool.and_eq_true] at hinv
  obtain ⟨⟨⟨_, hisr⟩, hsvc⟩, _⟩ := hinv
  obtain ⟨_, _, _, _, hpend⟩ := h.service
  obtain ⟨hreg, husage, hholder, _⟩ := h.session
  have hline : s.irqLine = true := (hpend hisr (by rw [hph]; rfl)).symm.trans hsvc
  exact ⟨h.config, h.storage, h.counters, ⟨hreg, husage, hholder, fun _ => hreg ▸ hisr⟩,
    ⟨iff_of_false nofun nofun, Nat.zero_le _, fun _ => rfl, fun _ => ⟨hline, rfl⟩, nofun⟩, h.host⟩

theorem Unlatched.engineStep {s : State} (h : Unlatched s) : Unlatched s.engineStep := by
  unfold State.engineStep
  split
  · next hph =>
    split
    · next hinv => exact h.enterService hph hinv
    · exact h
  · next hph => exact h.goOn (by rw [hph]; rfl) _ 0 (by split <;> rfl) (Nat.zero_le _)
  · next hph => exact h.s2loop hph
  · next hph => exact h.goOn (by rw [hph]; rfl) _ 0 (by split <;> rfl) (Nat.zero_le _)
  · next hph => exact h.s3loop hph
  · next hph => exact h.acknowledge hph
  · next hph => exact h.leaveService hph

/-! ### The serial side and the clear unit -/

theorem Unlatched.txTick {s : State} (h : Unlatched s) : Unlatched s.txTick := by
  obtain ⟨_, _, _, _, hf, _⟩ := h.storage
  unfold State.txTick
  split
  · have ht := h.setTx s.txUnderflow (fifo := s.txfifo.tail) (by rw [List.length_tail]; omega) h.counters.1 s.csTxon id
    exact ⟨ht.config, ht.storage, ht.counters, ht.session, ht.service, ht.host⟩
  · exact h

theorem Unlatched.rxTick {s : State} (h : Unlatched s) : Unlatched s.rxTick := by
  obtain ⟨_, e⟩ | ⟨b, _, ⟨hacc, e⟩ | ⟨_, e⟩⟩ := rxTick_cases s <;> rw [e]
  · exact h
  · have hroom : s.rxfifo.length < s.cfg.hwFifoDepth := by
      simp only [State.rxAccepts, Bool.and_eq_true, decide_eq_true_eq] at hacc
      exact hacc.2
    have ht := h.setRx s.rxOverflow (fifo := s.rxfifo ++ [fifoWordOf b]) (by simpa using hroom) h.counters.2 s.csRxon
      id s.draws
    exact ⟨ht.config, ht.storage, ht.counters, ht.session, ht.service, ht.host⟩
  · exact ⟨h.config, h.storage, h.counters, h.session, h.service, h.host⟩

theorem Unlatched.clearTxFifo {s : State} (h : Unlatched s) : Unlatched s.clearTxFifo := by
  unfold State.clearTxFifo
  split
  · have ht := h.setTx s.txUnderflow (fifo := []) (Nat.zero_le _) h.counters.1 s.csTxon id
    obtain ⟨hop, hheld, htx, hrx, _, hrp⟩ := h.host
    exact ⟨ht.config, ht.storage, ht.counters, ht.session, ht.service, ⟨hop, hheld, htx, hrx, nofun, hrp⟩⟩
  · exact h

theorem Unlatched.clearRxFifo {s : State} (h : Unlatched s) : Unlatched s.clearRxFifo := by
  unfold State.clearRxFifo
  split
  · have ht := h.setRx s.rxOverflow (fifo := []) (Nat.zero_le _) h.counters.2 s.csRxon id s.draws
    obtain ⟨hop, hheld, htx, hrx, htp, _⟩ := h.host
    exact ⟨ht.config, ht.storage, ht.counters, ht.session, ht.service, ⟨hop, hheld, htx, hrx, htp, nofun⟩⟩
  · exact h

/-! ### Reset and teardown -/

theorem resetStored_unlatched {c : Config} (h : c.wf) : Unlatched (State.resetStored c) := by
  have hthr : 0 < c.threshold := h.2.1
  exact ⟨h, by simp [State.resetStored, State.StorageInv, Ring.Ok, Ring.Written, Ring.itemCount, Memory.wf, Memory.within],
    ⟨hthr, hthr⟩, ⟨rfl, rfl, rfl, nofun⟩, ⟨iff_of_true rfl rfl, Nat.zero_le _, fun _ => rfl, nofun, nofun⟩,
    hostInv_of_idle rfl nofun rfl rfl⟩

/-- Settles O50: the reset event's latches put the last clause to the stored values. -/
theorem resetSatisfiesInvariant : Obligations.ResetSatisfiesInvariant := by
  intro c hc
  obtain ⟨_, _, _, _, _, _, _, htx, _, hrx, _⟩ := id hc
  rw [← resetStored_settle htx hrx]
  exact (resetStored_unlatched hc).settle

/-- What the reset event and teardown leave holds the stored values in every field of the block. -/
theorem withEnvironmentOf_unlatched (s : State) {c : Config} (h : c.wf) (power : Power) (report : Option Status) :
    Unlatched (s.withEnvironmentOf { State.resetStored c with power := power, initReport := report }) :=
  have hr := resetStored_unlatched h
  ⟨hr.config, hr.storage, hr.counters, hr.session, hr.service, hr.host⟩

theorem Unlatched.initBlock {s : State} (h : Unlatched s) : Unlatched s.initBlock := by
  unfold State.initBlock
  split
  · exact withEnvironmentOf_unlatched s h.config .ready none
  · exact withEnvironmentOf_unlatched s h.config .failed _

theorem Unlatched.teardown {s : State} (h : Unlatched s) : Unlatched s.teardown :=
  withEnvironmentOf_unlatched s h.config .off none

/-! ### Every step -/

theorem Unlatched.afterChoice {s : State} (h : Unlatched s) (call : Option CallRun) (clock : Bool) :
    Unlatched { s.afterChoice with call := call, clockRunning := clock } :=
  ⟨h.config, h.storage, h.counters, h.session, h.service, h.host⟩

theorem Unlatched.action {s t : State} (h : Unlatched s) (ha : Action s t) : Unlatched t := by
  have hc : Unlatched s.afterChoice := h.afterChoice s.call s.clockRunning
  cases ha with
  | request p r call _ hi => exact (h.afterChoice call s.clockRunning).issue hi
  | host _ hi => exact hc.hostStep hi
  | engine _ => exact hc.engineStep
  | txTick => exact hc.txTick
  | rxTick => exact hc.rxTick
  | clearTx => exact hc.clearTxFifo
  | clearRx => exact hc.clearRxFifo
  | outside call clock _ => exact h.afterChoice call clock

theorem Unlatched.move {s t : State} (h : Unlatched s) (hf : s.power ≠ .failed)
    (hm : s.afterChoice.move s.nextMove = .next t) : Unlatched t := by
  have hc : Unlatched s.afterChoice := h.afterChoice s.call s.clockRunning
  cases hs : s.power with
  | failed => exact absurd hs hf
  | ready =>
    by_cases ht : t.power = .ready
    · exact h.action (move_action hs ht hm)
    · obtain ⟨_, rfl⟩ := move_leaves_ready (s := s.afterChoice) hs ht hm
      exact hc.teardown
  | off =>
    obtain ⟨call, clock, rfl⟩ | rfl := move_off (s := s.afterChoice) hs hm
    · exact h.afterChoice call clock
    · exact hc.initBlock

/-- Settles O51: the mover keeps the invariant without its latch clause, and the latches put that back. -/
theorem stepKeepsInvariant : Obligations.StepKeepsInvariant := by
  intro s t h hstep
  obtain ⟨t, hf, hm, rfl⟩ := step_next hstep
  exact ((Unlatched.of_inv h).move hf hm).settle

end Sys2Proof.Laws
end

section
/-! PROOF. Registers and FIFOs (40_register_interface.md R80 to R87): each word of flags bit by bit, and from that the
reads, writes and field updates. -/

namespace Sys2Proof.Laws

open Sys2Proof
open Sys2Proof.Machine

theorem getLsbD_flagBit {i : Nat} (hi : i < 32) (b : Bool) (j : Nat) :
    (flagBit i b).getLsbD j = (b && decide (j = i)) := by
  cases b with
  | false => simp [flagBit]
  | true =>
    rw [flagBit, if_pos rfl, BitVec.getLsbD_shiftLeft, BitVec.getLsbD_one, Bool.true_and, Bool.eq_iff_iff]
    simp only [Bool.and_eq_true, Bool.not_eq_true', decide_eq_true_eq, decide_eq_false_iff_not]
    omega

/-- The word of `CS` (R85) as a function of the bit number. -/
theorem csWord_bit (s : State) (j : Nat) : s.csWord.getLsbD j =
    (s.csEn && decide (j = 0) || s.csRxon && decide (j = 1) || s.csTxon && decide (j = 2) ||
      s.txclrPending && decide (j = 3) || s.rxclrPending && decide (j = 4) || s.txw && decide (j = 17) ||
      s.rxr && decide (j = 18) || s.txd && decide (j = 19) || s.rxd && decide (j = 20)) := by
  simp [State.csWord, getLsbD_flagBit]

/-- The word of two flags, at bits 1 and 0 (R80). -/
theorem flagPair_bit (hi lo : Bool) (j : Nat) :
    (flagBit 1 hi ||| flagBit 0 lo).getLsbD j = (hi && decide (j = 1) || lo && decide (j = 0)) := by
  simp [getLsbD_flagBit]

/-- Settles O30: each named bit of `csWord_bit`, and all others. -/
theorem csWordBits : Obligations.CsWordBits := by
  intro s
  have bit (j : Nat) : (s.readRegister .cs).1.getLsbD j = _ := csWord_bit s j
  simp only [bit]
  refine ⟨rfl, ?_, ?_, ?_, ?_, ?_, ?_, ?_, ?_, ?_, fun i hi => ?_⟩
  case refine_10 =>
    simp only [List.mem_cons, List.not_mem_nil, or_false, not_or] at hi
    simp [hi]
  all_goals simp [State.txw, State.rxr, State.txd, State.rxd]

/-- Settles O29: the stored values with the ready condition of the empty transmit FIFO up. -/
theorem resetRegistersRead : Obligations.ResetRegistersRead := by
  intro c hc
  obtain ⟨_, _, _, _, _, _, _, htx, _, hrx, _, hdepth⟩ := hc
  have htxw : (State.resetWith c).txw = true := decide_eq_true htx
  have hrxr : (State.resetWith c).rxr = false := decide_eq_false (Nat.not_le.mpr hrx)
  have htxd : (State.resetWith c).txd = true := decide_eq_true hdepth
  have hcs : flagBit 0 true ||| flagBit 1 false ||| flagBit 2 false ||| flagBit 3 false ||| flagBit 4 false |||
      flagBit 17 true ||| flagBit 18 false ||| flagBit 19 true ||| flagBit 20 false = 0x000A0001#32 := by decide
  have hen : flagBit 1 true ||| flagBit 0 true = 3#32 := by decide
  have hstc : flagBit 1 false ||| flagBit 0 true = 1#32 := by decide
  refine ⟨Prod.ext ?_ rfl, Prod.ext hen rfl, Prod.ext hstc rfl, rfl, rfl, rfl, rfl, rfl⟩
  simp only [State.readRegister, State.csWord, htxw, hrxr, htxd]
  exact hcs

/-- Settles O31: a write of the word read with one bit changed stores that bit and what the others held. -/
theorem fieldUpdateIsReadModifyWrite : Obligations.FieldUpdateIsReadModifyWrite := by
  intro s f b v hv
  have bit (j : Nat) (hj : j < 5) : v.getLsbD j = if j = f.bit then b else decide (j < 3) && s.csWord.getLsbD j :=
    hv j hj
  simp only [csWord_bit] at bit
  show s.csUpdate f b = s.writeCs v
  simp only [State.writeCs, bit 0 (by decide), bit 1 (by decide), bit 2 (by decide), bit 3 (by decide),
    bit 4 (by decide)]
  cases f <;> simp [CsField.bit]

theorem writeIntstc_irqLine_eq_false_iff (s : State) (v : Word) : (s.writeIntstc v).irqLine = false ↔
    (s.intstcTxw = false ∨ v.getLsbD 0 = true) ∧ (s.intstcRxr = false ∨ v.getLsbD 1 = true) := by
  simp only [State.irqLine, State.writeIntstc, Bool.or_eq_false_iff, Bool.and_eq_false_iff, Bool.not_eq_false']

/-- Settles O32: the latches of the state in which the flags written 1 have fallen. -/
theorem intstcWriteOneToClear : Obligations.IntstcWriteOneToClear := by
  rintro s u v hp rfl
  refine ⟨rfl, ?_, ?_, ?_⟩
  · rw [settle_intstcTxw_iff (s := s.writeRegister .intstc v) hp]
    simp [State.writeRegister, State.writeIntstc]
  · rw [settle_intstcRxr_iff (s := s.writeRegister .intstc v) hp]
    simp [State.writeRegister, State.writeIntstc]
  · rw [settle_svcPending_iff]
    have hdown := writeIntstc_irqLine_eq_false_iff s v
    have hup : (s.writeIntstc v).settle.irqLine = true ↔ _ := Bool.or_eq_true_iff
    simp only [State.writeRegister, hdown, hup, and_assoc]
    rfl

theorem and_three_bit (v : Word) (j : Nat) :
    (v &&& 3#32).getLsbD j = (v.getLsbD 1 && decide (j = 1) || v.getLsbD 0 && decide (j = 0)) := by
  rw [BitVec.getLsbD_and]
  match j with
  | 0 => simp
  | 1 => simp
  | j + 2 =>
    have : (3#32).getLsbD (j + 2) = false := by
      rw [BitVec.getLsbD, show (3#32).toNat = 2 ^ 2 - 1 from rfl, Nat.testBit_two_pow_sub_one]
      simp
    simp [this]

theorem or_eq_ite (old bit : Bool) : (old || bit) = if bit = true then true else old := by cases bit <;> simp

theorem and_not_eq_ite (old bit : Bool) : (old && !bit) = if bit = true then false else old := by cases bit <;> simp

/-- Settles O33: each write as its update, and each word read back by its bits. -/
theorem registerWritesReadBack : Obligations.RegisterWritesReadBack := by
  intro s v
  refine ⟨?_, fun i => ?_, rfl, rfl, rfl, rfl, rfl, rfl, rfl, rfl, rfl, rfl, rfl, ?_, ?_, ?_⟩
  · simp only [State.writeRegister, State.writeCs, or_eq_ite]
  · have after : ((s.writeRegister .cs v).readRegister .cs).1.getLsbD i = _ := csWord_bit (s.writeCs v) i
    have before : (s.readRegister .cs).1.getLsbD i = _ := csWord_bit s i
    rw [after, before]
    match i with
    | 0 | 1 | 2 => simp [State.writeCs]
    | 3 | 4 => simp [State.writeCs, Bool.or_comm]
    | i + 5 => simp [State.writeCs, State.txw, State.rxr, State.txd, State.rxd]
  · refine BitVec.eq_of_getLsbD_eq fun i _ => ?_
    rw [and_three_bit]
    exact flagPair_bit _ _ i
  · simp only [State.writeRegister, State.writeIntstc, and_not_eq_ite]
  · refine BitVec.eq_of_getLsbD_eq fun i hi => ?_
    have after : ((s.writeRegister .intstc v).readRegister .intstc).1.getLsbD i = _ := flagPair_bit _ _ i
    have before : (s.readRegister .intstc).1.getLsbD i = _ := flagPair_bit _ _ i
    rw [after, BitVec.getLsbD_and, before]
    match i with
    | 0 | 1 => simp [State.writeRegister, State.writeIntstc]
    | i + 2 => simp

/-- Settles O34: below the depth and at it, with a word and with none. -/
theorem fifoAccesses : Obligations.FifoAccesses := by
  intro s w
  refine ⟨fun hroom => ?_, fun hfull => ?_, fun rest hf => ?_, fun hempty => ?_⟩
  · simp [State.writeRegister, State.fifoWrite, State.txd, hroom]
  · simp [State.writeRegister, State.fifoWrite, State.txd, Nat.not_lt.mpr hfull]
  · simp [State.readRegister, State.fifoReadWord, State.fifoPop, State.rxd, hf]
  · simp [State.readRegister, State.fifoPop, State.rxd, hempty]

end Sys2Proof.Laws
end

section
/-! PROOF. Counts and round trip of a ring (41_ring_buffer.md R103 to R106). -/

namespace Sys2Proof.Laws

open Sys2Proof
open Sys2Proof.Machine

/-- Settles O27: the counts add up to the capacity, so one is 0 exactly when the other is `n`. -/
theorem ringCountsAgree : Obligations.RingCountsAgree := by
  intro n r _ hh ht
  have hle := itemCount_le n r
  have hsum := count_add_space n r
  refine ⟨hle, hsum, ?_, ?_, ?_⟩
  · exact Int.toNat_of_nonneg (Int.emod_nonneg _ (by omega))
  · rw [isFull_iff hh ht]
    omega
  · rw [← itemCount_eq_zero hh ht]
    omega

/-- As many writes as there is room for all succeed, and append their samples in order. -/
theorem foldlM_tryWrite {n : Nat} (free : Nat → Byte) (samples : List Byte) {r : Ring} (hok : r.Ok n)
    (hfit : r.itemCount n + samples.length ≤ n) :
    ∃ full : Ring, samples.foldlM (fun q b => q.tryWrite n b) r = some full ∧ full.Ok n ∧
      full.contents n free = r.contents n free ++ samples := by
  induction samples generalizing r with
  | nil => exact ⟨r, rfl, hok, (List.append_nil _).symm⟩
  | cons b rest ih =>
    obtain ⟨hh, ht, _⟩ := id hok
    rw [List.length_cons] at hfit
    have hroom : (r.head + 1) % (n + 1) ≠ r.tail := fun hfull => by
      have := (isFull_iff hh ht).mp hfull
      omega
    have hcount := write_itemCount (r.slots.write r.head b) hh ht hroom
    obtain ⟨full, hw, hfull, hcont⟩ := ih (write_ok b hok) (by omega)
    refine ⟨full, ?_, hfull, ?_⟩
    · rw [List.foldlM_cons, tryWrite_eq_some_iff.mpr ⟨hroom, rfl⟩]
      exact hw
    · rw [hcont, write_contents free b hh ht hroom, List.append_assoc]
      rfl

/-- One read of the round trip: the sample must be the one expected. -/
def readExpecting (n : Nat) (free : Nat → Byte) (r : Ring) (b : Byte) : Option Ring :=
  match r.tryRead n free with
  | some (b', r') => if b' = b then some r' else none
  | none => none

/-- Reading a ring's contents one by one succeeds and leaves it empty. -/
theorem foldlM_readExpecting {n : Nat} (free : Nat → Byte) (samples : List Byte) {r : Ring} (hok : r.Ok n)
    (hcont : r.contents n free = samples) :
    ∃ empty : Ring, samples.foldlM (readExpecting n free) r = some empty ∧ empty.itemCount n = 0 := by
  induction samples generalizing r with
  | nil => exact ⟨r, rfl, by rw [← contents_length n free, hcont, List.length_nil]⟩
  | cons b rest ih =>
    obtain ⟨hh, ht, _⟩ := id hok
    have hne : r.head ≠ r.tail := fun he => by
      have hlen := congrArg List.length hcont
      rw [contents_length, (itemCount_eq_zero hh ht).mpr he] at hlen
      cases hlen
    rw [read_contents free hh ht hne] at hcont
    obtain ⟨hb, hrest⟩ := List.cons.inj hcont
    obtain ⟨empty, hr, hempty⟩ := ih (read_ok hok) hrest
    refine ⟨empty, ?_, hempty⟩
    rw [List.foldlM_cons, readExpecting, tryRead_eq_some_iff.mpr ⟨hne, rfl, rfl⟩]
    simpa [hb] using hr

/-- Settles O28: after the writes the contents are the samples, which the reads then find one by one. -/
theorem ringRoundTrip : Obligations.RingRoundTrip := by
  intro n free r samples _ hok hempty hfit
  have hzero : r.itemCount n = 0 := (itemCount_eq_zero hok.1 hok.2.1).mpr hempty
  have hnil : r.contents n free = [] := List.length_eq_zero_iff.mp (by rw [contents_length, hzero])
  obtain ⟨full, hw, hfull, hcont⟩ := foldlM_tryWrite free samples hok (by omega)
  rw [hnil, List.nil_append] at hcont
  obtain ⟨empty, hr, hnone⟩ := foldlM_readExpecting free samples hfull hcont
  exact ⟨full, empty, hw, by rw [← contents_length n free, hcont], hr, hnone⟩

end Sys2Proof.Laws
end

section
/-! PROOF. Serial side, clear unit, clock and life cycle (40_register_interface.md R89 to R93, 45_call_session.md R165,
70_reset_and_hazards.md R200 to R202): each move where it is enabled and where it is not. -/

namespace Sys2Proof.Laws

open Sys2Proof
open Sys2Proof.Machine

theorem live_ready {s : State} (h : s.power = .ready) : s.live = true := by simp [State.live, h]

theorem live_off {s : State} (h : s.power = .off) : s.live = false := by simp [State.live, h]

/-- Settles O36: the rule's five conditions, together and one by one missing. -/
theorem txTickMovesOneSample : Obligations.TxTickMovesOneSample := by
  intro s hf
  rw [act_move _ hf]
  refine ⟨fun w rest hp hclk hen hon hfifo => ?_, fun hmiss => ?_⟩
  · have he : s.txTickEnabled = true := by simp [State.txTickEnabled, live_ready hp, hclk, hen, hon, hfifo]
    simp only [State.move, State.txTick, if_pos he, hfifo]
    rfl
  · have he : s.txTickEnabled = false := by
      obtain h | h | h | h | h := hmiss
      · simp [State.txTickEnabled, live_off h]
      all_goals simp [State.txTickEnabled, h]
    simp [State.move, State.txTick, he]

theorem fifoWordOf_eq (b : Byte) : fifoWordOf b = BitVec.ofNat 32 b.toNat :=
  BitVec.eq_of_toNat_eq (by simp [fifoWordOf])

theorem rxTick_of_arrival {s : State} {b : Byte} (hp : s.power = .ready) (hclk : s.clockRunning = true)
    (hb : arrival s.lineInRest = some b) :
    s.rxTick =
      { s with
        lineInRest := lineAfter s.lineInRest
        rxfifo := if s.rxAccepts then s.rxfifo ++ [fifoWordOf b] else s.rxfifo } := by
  rw [State.rxTick, if_pos (by simp [State.rxTickEnabled, live_ready hp, hclk, hb]), hb]
  rfl

/-- Settles O37: an arrival is consumed, and stored if the receiver takes it. -/
theorem rxTickTakesOneSample : Obligations.RxTickTakesOneSample := by
  intro s hf
  rw [act_move _ hf]
  refine ⟨fun b rest hp hclk hline => ?_, fun hmiss => ?_⟩
  · have hb : arrival s.lineInRest = some b ∧ lineAfter s.lineInRest = rest := by
      obtain ⟨known, endless, hl, rfl⟩ | ⟨stream, k, hl, rfl, rfl⟩ := hline <;> simp [hl]
    have htick := rxTick_of_arrival hp hclk hb.1
    rw [hb.2, fifoWordOf_eq] at htick
    refine ⟨fun hen hon hroom => ?_, fun hno => ?_⟩
    · have ha : s.rxAccepts = true := by simp [State.rxAccepts, hen, hon, hroom]
      rw [ha, if_pos rfl] at htick
      exact congrArg Host.Outcome.next htick
    · have ha : s.rxAccepts = false := by
        obtain h | h | h := hno
        · simp [State.rxAccepts, h]
        · simp [State.rxAccepts, h]
        · simp [State.rxAccepts, Nat.not_lt.mpr h]
      rw [ha, if_neg nofun] at htick
      exact congrArg Host.Outcome.next htick
  · have he : s.rxTickEnabled = false := by
      obtain h | h | h := hmiss
      · simp [State.rxTickEnabled, live_off h]
      all_goals simp [State.rxTickEnabled, h]
    simp [State.move, State.rxTick, he]

theorem clearTxFifo_of_enabled {s : State} (hp : s.power = .ready) (hclk : s.clockRunning = true)
    (hpend : s.txclrPending = true) : s.clearTxFifo = { s with txfifo := [], txclrPending := false } := by
  rw [State.clearTxFifo, if_pos (by simp [live_ready hp, hclk, hpend])]

theorem clearTxFifo_of_disabled {s : State}
    (h : s.power = .off ∨ s.clockRunning = false ∨ s.txclrPending = false) : s.clearTxFifo = s := by
  refine if_neg ?_
  obtain h | h | h := h
  · simp [live_off h]
  all_goals simp [h]

theorem clearRxFifo_of_enabled {s : State} (hp : s.power = .ready) (hclk : s.clockRunning = true)
    (hpend : s.rxclrPending = true) : s.clearRxFifo = { s with rxfifo := [], rxclrPending := false } := by
  rw [State.clearRxFifo, if_pos (by simp [live_ready hp, hclk, hpend])]

theorem clearRxFifo_of_disabled {s : State}
    (h : s.power = .off ∨ s.clockRunning = false ∨ s.rxclrPending = false) : s.clearRxFifo = s := by
  refine if_neg ?_
  obtain h | h | h := h
  · simp [live_off h]
  all_goals simp [h]

/-- Settles O38: both halves of the clear unit, enabled and not. -/
theorem clearUnitEmptiesFifos : Obligations.ClearUnitEmptiesFifos := by
  intro s hf
  simp only [act_move _ hf, State.move, Host.Outcome.next.injEq]
  exact ⟨clearTxFifo_of_enabled, clearTxFifo_of_disabled, clearRxFifo_of_enabled, clearRxFifo_of_disabled⟩

/-- Settles O41: both calls are `setClock`. -/
theorem clockCallsSetTheInput : Obligations.ClockCallsSetTheInput :=
  fun _ hf => ⟨act_move _ hf, act_move _ hf⟩

/-- Settles O49: each event where it is enabled and where it is not; the latches after a reset are those of the stored
values. -/
theorem lifeCycleEvents : Obligations.LifeCycleEvents := by
  intro s
  have alive (h : s.power ≠ .failed) (m : Move) : s.act m = s.move m := act_move m h
  refine ⟨fun hp hok => ⟨s.initBlock, ?_, ?_, fun hwf => ?_⟩, fun hp hok => ⟨s.initBlock, ?_, ?_⟩, fun hp => ?_,
    fun hp hu => ⟨s.teardown, ?_, rfl⟩, fun hno => ?_⟩
  · simp [alive (by simp [hp]), State.move, State.resetEvent, hp]
  · rw [State.initBlock, if_pos hok]
    rfl
  · obtain ⟨_, _, _, _, _, _, _, htx, _, hrx, _⟩ := hwf
    have hset := resetStored_settle (c := s.cfg) htx hrx
    have hflags : (State.resetStored s.cfg).latchedTxw = true ∧ (State.resetStored s.cfg).latchedRxr = false :=
      ⟨congrArg State.intstcTxw hset, congrArg State.intstcRxr hset⟩
    have hsame : s.initBlock = s.withEnvironmentOf (State.resetStored s.cfg) := if_pos hok
    have hTxw : s.initBlock.latchedTxw = true := by rw [hsame]; exact hflags.1
    have hRxr : s.initBlock.latchedRxr = false := by rw [hsame]; exact hflags.2
    rw [State.settle, hTxw, hRxr, hsame]
    rfl
  · simp [alive (by simp [hp]), State.move, State.resetEvent, hp]
  · rw [State.initBlock, if_neg (by simp [hok])]
    rfl
  · simp [alive (by simp [hp]), State.move, resetEvent_ready hp]
  · simp [alive (by simp [hp]), State.move, State.teardownEvent, hp, hu]
  · obtain hp | ⟨hp, hu⟩ := hno
    · simp [alive (by simp [hp]), State.move, State.teardownEvent, hp]
    · simp [alive (by simp [hp]), State.move, State.teardownEvent, hu]

end Sys2Proof.Laws
end

section
/-! PROOF. Runs of a given list of moves, one move at a time: the moves still to come are inert data of the state. -/

namespace Sys2Proof.Laws

open Sys2Proof
open Sys2Proof.Machine

@[simp] theorem runMoves_nil (s : State) : s.runMoves [] = .next (s.withSched []) := rfl

theorem step_withSched {s t : State} {m : Move} {rest : List Move}
    (h : (s.withSched rest).act m = .next (t.withSched rest)) :
    step (s.withSched (m :: rest)) = .next (t.settle.withSched rest) :=
  (step_sched rfl).trans (congrArg settleOutcome h)

/-- The first move of a list, with its latches, then the rest. -/
theorem runMoves_cons {s t : State} {m : Move} {rest : List Move}
    (h : (s.withSched rest).act m = .next (t.withSched rest)) : s.runMoves (m :: rest) = t.settle.runMoves rest :=
  run_step rest.length (step_withSched h)

theorem runMoves_cons_settled {s t : State} {m : Move} {rest : List Move}
    (h : (s.withSched rest).act m = .next (t.withSched rest)) (ht : t.Settled) :
    s.runMoves (m :: rest) = t.runMoves rest := by
  rw [runMoves_cons h, ht]

end Sys2Proof.Laws
end

section
/-! PROOF. The Transfer Engine (42_transfer_engine.md): its step phase by phase, the return of the routine, the bound on
an invocation, and the starved transmitter. -/

namespace Sys2Proof.Laws

open Sys2Proof
open Sys2Proof.Machine

/-! ### The step, phase by phase -/

theorem engineStep_idle {s : State} (h : s.eng.phase = .idle) :
    s.engineStep = if s.invocable then s.enterService else s := by simp only [State.engineStep, h]

theorem engineStep_s2test {s : State} (h : s.eng.phase = .s2test) : s.engineStep = s.s2test := by
  simp only [State.engineStep, h]

theorem engineStep_s2loop {s : State} (h : s.eng.phase = .s2loop) : s.engineStep = s.s2loop := by
  simp only [State.engineStep, h]

theorem engineStep_s3test {s : State} (h : s.eng.phase = .s3test) : s.engineStep = s.s3test := by
  simp only [State.engineStep, h]

theorem engineStep_s3loop {s : State} (h : s.eng.phase = .s3loop) : s.engineStep = s.s3loop := by
  simp only [State.engineStep, h]

theorem engineStep_s4 {s : State} (h : s.eng.phase = .s4) : s.engineStep = s.acknowledge := by
  simp only [State.engineStep, h]

theorem engineStep_s5 {s : State} (h : s.eng.phase = .s5) : s.engineStep = s.leaveService := by
  simp only [State.engineStep, h]

theorem enterService_of_invocable {s : State} (hph : s.eng.phase = .idle) (hp : s.power = .ready)
    (hisr : s.isrRegistered = true) (hsvc : s.svcPending = true) (hserv : s.inService = false) :
    s.engineStep = s.enterService := by
  rw [engineStep_idle hph, if_pos]
  simp [State.invocable, live_ready hp, hisr, hsvc, hserv]

/-- Settles O42: the routine is entered exactly when `invocable`, whose four conditions are those named. -/
theorem serviceEntry : Obligations.ServiceEntry := by
  intro s hf hph
  refine ⟨fun hp hisr hsvc hserv => ?_, fun hmiss => ?_⟩
  · rw [act_engine hp, enterService_of_invocable hph hp hisr hsvc hserv]
    rfl
  · rw [act_move _ hf, State.move]
    cases hl : s.live with
    | false => rfl
    | true =>
      have hno : s.invocable = false := by
        obtain h | h | h | h := hmiss
        · simp [live_off h] at hl
        all_goals simp [State.invocable, h]
      rw [if_pos rfl, engineStep_idle hph, hno]
      rfl

theorem s2test_eq (s : State) :
    s.s2test = { s with eng := ⟨if s.txfifo.length < s.cfg.txReadyLevel then .s2loop else .s3test, 0⟩ } := by
  simp [State.s2test, State.txw, State.goPhase]

theorem s3test_eq (s : State) :
    s.s3test = { s with eng := ⟨if s.cfg.rxReadyLevel ≤ s.rxfifo.length then .s3loop else .s4, 0⟩ } := by
  simp [State.s3test, State.rxr, State.goPhase]

theorem s2test_of_low {s : State} (h : s.txfifo.length < s.cfg.txReadyLevel) : s.s2test = s.goPhase .s2loop := by
  rw [s2test_eq, if_pos h]
  rfl

theorem s3test_of_low {s : State} (h : s.rxfifo.length < s.cfg.rxReadyLevel) : s.s3test = s.goPhase .s4 := by
  rw [s3test_eq, if_neg (Nat.not_le.mpr h)]
  rfl

/-- Settles O43: both tests branch on the level of their FIFO. -/
theorem serviceTestsReadLiveConditions : Obligations.ServiceTestsReadLiveConditions := by
  intro s hp
  refine ⟨fun hph => ?_, fun hph => ?_⟩
  · rw [act_engine hp, engineStep_s2test hph, s2test_eq]
  · rw [act_engine hp, engineStep_s3test hph, s3test_eq]

theorem s2loop_of_exit {s : State} (h : s.cfg.batchLimit ≤ s.eng.i ∨ s.cfg.hwFifoDepth ≤ s.txfifo.length) :
    s.s2loop = s.goPhase .s3test := by
  obtain ⟨_, e⟩ | ⟨hi, hroom, _⟩ | ⟨hi, hroom, _⟩ := s2loop_cases s
  · exact e
  all_goals exact (h.elim (Nat.not_le.mpr hi) (Nat.not_le.mpr hroom)).elim

theorem s2loop_of_pull {s : State} (hi : s.eng.i < s.cfg.batchLimit) (hroom : s.txfifo.length < s.cfg.hwFifoDepth)
    (hne : s.txring.head ≠ s.txring.tail) :
    s.s2loop =
      { s with
        txring := { s.txring with tail := (s.txring.tail + 1) % (s.cfg.nTx + 1) }
        txfifo := s.txfifo ++ [fifoWordOf (s.txring.slot s.txFree s.txring.tail)]
        eng := ⟨.s2loop, s.eng.i + 1⟩ } := by
  obtain ⟨hexit, _⟩ | ⟨_, _, _, e⟩ | ⟨_, _, he, _⟩ := s2loop_cases s
  · exact (hexit.elim (Nat.not_le.mpr hi) (Nat.not_le.mpr hroom)).elim
  · exact e
  · exact absurd he hne

theorem s2loop_of_empty {s : State} (hi : s.eng.i < s.cfg.batchLimit) (hroom : s.txfifo.length < s.cfg.hwFifoDepth)
    (he : s.txring.head = s.txring.tail) : s.s2loop = s.countUnderflow.goPhase .s3test := by
  obtain ⟨hexit, _⟩ | ⟨_, _, hne, _⟩ | ⟨_, _, _, e⟩ := s2loop_cases s
  · exact (hexit.elim (Nat.not_le.mpr hi) (Nat.not_le.mpr hroom)).elim
  · exact absurd he hne
  · exact e

theorem countUnderflow_of_lt {s : State} (hroom : s.txfifo.length < s.cfg.hwFifoDepth)
    (h : min (s.txUnderflow + 1) s.cfg.counterMax < s.cfg.threshold) :
    s.countUnderflow = { s with txUnderflow := min (s.txUnderflow + 1) s.cfg.counterMax } := by
  obtain ⟨_, e⟩ | ⟨htrip, _⟩ := countUnderflow_cases s (Nat.le_of_lt hroom)
  · exact e
  · exact absurd h (Nat.not_lt.mpr htrip)

theorem countUnderflow_of_trip {s : State} (hroom : s.txfifo.length < s.cfg.hwFifoDepth)
    (h : s.cfg.threshold ≤ min (s.txUnderflow + 1) s.cfg.counterMax) :
    s.countUnderflow =
      { s with
        csTxon := false
        txfifo := (s.txfifo ++ [0#32, 0#32]).take s.cfg.hwFifoDepth
        txUnderflow := 0 } := by
  obtain ⟨hlow, _⟩ | ⟨_, e⟩ := countUnderflow_cases s (Nat.le_of_lt hroom)
  · exact absurd hlow (Nat.not_lt.mpr h)
  · exact e

/-- Settles O44: the three outcomes of `s2loop_cases`, the last split by the accounting. -/
theorem transmitLoopIteration : Obligations.TransmitLoopIteration := by
  intro s hp hph
  rw [act_engine hp, engineStep_s2loop hph]
  refine ⟨fun hexit => by rw [s2loop_of_exit hexit]; rfl, fun hi hroom => ⟨fun hne => ?_, fun he => ?_⟩⟩
  · rw [s2loop_of_pull hi hroom hne, fifoWordOf_eq]
  · rw [s2loop_of_empty hi hroom he]
    exact ⟨fun hlow => by rw [countUnderflow_of_lt hroom hlow]; rfl,
      fun htrip => by rw [countUnderflow_of_trip hroom htrip]; rfl⟩

theorem s3loop_of_exit {s : State} (h : s.cfg.batchLimit ≤ s.eng.i ∨ s.rxfifo = []) :
    s.s3loop = s.goPhase .s4 := by
  obtain ⟨_, e⟩ | ⟨w, rest, hfifo, hi, _⟩ := s3loop_cases s
  · exact e
  · exact (h.elim (Nat.not_le.mpr hi) fun hnil => List.cons_ne_nil w rest (hfifo.symm.trans hnil)).elim

/-- An iteration that takes a word from the FIFO: it is stored, or lost on a full ring. -/
theorem s3loop_of_word {s : State} {w : Word} {rest : List Word} (hi : s.eng.i < s.cfg.batchLimit)
    (hfifo : s.rxfifo = w :: rest) :
    ((s.rxring.head + 1) % (s.cfg.nRx + 1) ≠ s.rxring.tail → s.s3loop =
      { s with
        rxfifo := rest
        rxring :=
          { s.rxring with
            slots := s.rxring.slots.write s.rxring.head (sampleOf w)
            head := (s.rxring.head + 1) % (s.cfg.nRx + 1) }
        eng := ⟨.s3loop, s.eng.i + 1⟩ }) ∧
    ((s.rxring.head + 1) % (s.cfg.nRx + 1) = s.rxring.tail →
      s.s3loop = ({ s with rxfifo := rest }.countOverflow).goPhase .s4) := by
  obtain ⟨hexit, _⟩ | ⟨w', rest', hfifo', _, hcase⟩ := s3loop_cases s
  · exact (hexit.elim (Nat.not_le.mpr hi) fun hnil => List.cons_ne_nil w rest (hfifo.symm.trans hnil)).elim
  · obtain ⟨rfl, rfl⟩ := List.cons.inj (hfifo.symm.trans hfifo')
    obtain ⟨hroom, e⟩ | ⟨hfull, e⟩ := hcase
    · exact ⟨fun _ => e, fun hfull => absurd hfull hroom⟩
    · exact ⟨fun hroom => absurd hfull hroom, fun _ => e⟩

/-- Settles O45: exit, store or loss, the loss split by the accounting. -/
theorem receiveLoopIteration : Obligations.ReceiveLoopIteration := by
  intro s hp hph
  rw [act_engine hp, engineStep_s3loop hph]
  refine ⟨fun hexit => by rw [s3loop_of_exit hexit]; rfl, fun w rest hi hfifo => ?_⟩
  obtain ⟨hstore, hloss⟩ := s3loop_of_word hi hfifo
  refine ⟨fun hroom => by rw [hstore hroom]; rfl, fun hfull => ?_⟩
  rw [hloss hfull]
  obtain ⟨hlow, e⟩ | ⟨htrip, e⟩ := countOverflow_cases { s with rxfifo := rest } <;> rw [e]
  · exact ⟨fun _ => rfl, fun htrip => absurd hlow (Nat.not_lt.mpr htrip)⟩
  · exact ⟨fun hlow => absurd hlow (Nat.not_lt.mpr htrip), fun _ => ⟨_, rfl, rfl⟩⟩

/-! ### Return (R122, R123) -/

/-- The step of a scheduled engine move. -/
theorem step_engine {s : State} {rest : List Move} (hp : s.power = .ready) (hs : s.sched = .engine :: rest) :
    step s = .next (State.settle { s with sched := rest }.engineStep) := by
  rw [step_sched hs, act_engine (s := { s with sched := rest }) hp]
  rfl

/-- The latches of a ready block, written out. -/
theorem settle_of_ready {s : State} (h : s.power = .ready) :
    s.settle =
      { s with
        intstcTxw := s.intstcTxw || decide (s.txfifo.length < s.cfg.txReadyLevel) && s.intenTxw
        intstcRxr := s.intstcRxr || decide (s.cfg.rxReadyLevel ≤ s.rxfifo.length) && s.intenRxr
        svcPending := s.settle.svcPending } := by
  simp only [State.settle, State.latchedTxw, State.latchedRxr, live_ready h, Bool.true_and]
  rfl

/-- Settles O46: S4 leaves the line down, so that any flag the latches set is an edge; S5 leaves the flags alone. -/
theorem serviceReturn : Obligations.ServiceReturn := by
  intro s rest hp hs
  rw [step_engine hp hs]
  refine ⟨fun hph => ⟨_, rfl, ?_⟩, fun hph => ⟨_, rfl, ?_⟩⟩
  · rw [engineStep_s4 (s := { s with sched := rest }) hph, acknowledge_eq]
    refine ⟨settle_of_ready hp, (settle_svcPending_iff _).trans ?_⟩
    exact or_congr_right (and_congr_right fun _ => and_iff_right rfl)
  · rw [engineStep_s5 (s := { s with sched := rest }) hph]
    exact ⟨settle_of_ready hp, settle_svcPending_iff _⟩

/-! ### Bounded work (R125) -/

/-- How many engine steps are left at most until the routine is idle again, with batch limit `b`. -/
def stepsLeft (b : Nat) (e : Engine) : Nat :=
  match e.phase with
  | .idle => 0
  | .s5 => 1
  | .s4 => 2
  | .s3loop => 3 + (b - e.i)
  | .s3test => 4 + b
  | .s2loop => 5 + b + (b - e.i)
  | .s2test => 6 + b + b

/-- A step of a running routine brings it nearer to its end, and its end is `(Idle, 0)` with signalling unmasked. -/
theorem engineStep_advances {s : State} (h : s.eng.phase ≠ .idle) :
    stepsLeft s.cfg.batchLimit s.engineStep.eng < stepsLeft s.cfg.batchLimit s.eng ∧
      (s.engineStep.eng.phase = .idle → s.engineStep.eng = ⟨.idle, 0⟩ ∧ s.engineStep.inService = false) := by
  cases hph : s.eng.phase with
  | idle => exact absurd hph h
  | s2test =>
    rw [engineStep_s2test hph, s2test_eq]
    constructor <;> split <;> simp [stepsLeft, hph]
    omega
  | s2loop =>
    rw [engineStep_s2loop hph]
    obtain ⟨_, e⟩ | ⟨hi, _, _, e⟩ | ⟨_, _, _, e⟩ := s2loop_cases s <;> rw [e] <;>
      simp [stepsLeft, hph] <;> omega
  | s3test =>
    rw [engineStep_s3test hph, s3test_eq]
    constructor <;> split <;> simp [stepsLeft, hph]
    omega
  | s3loop =>
    rw [engineStep_s3loop hph]
    obtain ⟨_, e⟩ | ⟨w, rest, _, hi, ⟨_, e⟩ | ⟨_, e⟩⟩ := s3loop_cases s <;> rw [e] <;>
      simp [stepsLeft, hph] <;> omega
  | s4 =>
    rw [engineStep_s4 hph, acknowledge_eq]
    simp [stepsLeft, hph]
  | s5 =>
    rw [engineStep_s5 hph]
    simp [stepsLeft, hph, State.leaveService]

/-- The engine does not look at the moves still to come. -/
theorem countUnderflow_withSched (s : State) (l : List Move) :
    (s.withSched l).countUnderflow = s.countUnderflow.withSched l := by
  by_cases h : tripReached s.cfg (satInc s.cfg s.txUnderflow) = true
  · rw [show s.countUnderflow = _ from if_pos h]; exact if_pos h
  · rw [show s.countUnderflow = _ from if_neg h]; exact if_neg h

theorem countOverflow_withSched (s : State) (l : List Move) :
    (s.withSched l).countOverflow = s.countOverflow.withSched l := by
  by_cases h : tripReached s.cfg (satInc s.cfg s.rxOverflow) = true
  · rw [show s.countOverflow = _ from if_pos h]; exact if_pos h
  · rw [show s.countOverflow = _ from if_neg h]; exact if_neg h

theorem s2loop_withSched (s : State) (l : List Move) : (s.withSched l).s2loop = s.s2loop.withSched l := by
  obtain ⟨hexit, e⟩ | ⟨hi, hroom, hne, e⟩ | ⟨hi, hroom, he, e⟩ := s2loop_cases s <;> rw [e]
  · exact s2loop_of_exit hexit
  · exact s2loop_of_pull hi hroom hne
  · exact (s2loop_of_empty (s := s.withSched l) hi hroom he).trans
      (congrArg (State.goPhase .s3test) (countUnderflow_withSched s l))

theorem s3loop_withSched (s : State) (l : List Move) : (s.withSched l).s3loop = s.s3loop.withSched l := by
  obtain ⟨hexit, e⟩ | ⟨w, rest, hfifo, hi, ⟨hroom, e⟩ | ⟨hfull, e⟩⟩ := s3loop_cases s <;> rw [e]
  · exact s3loop_of_exit hexit
  · exact (s3loop_of_word (s := s.withSched l) hi hfifo).1 hroom
  · exact ((s3loop_of_word (s := s.withSched l) hi hfifo).2 hfull).trans
      (congrArg (State.goPhase .s4) (countOverflow_withSched { s with rxfifo := rest } l))

theorem engineStep_withSched (s : State) (l : List Move) :
    (s.withSched l).engineStep = s.engineStep.withSched l := by
  cases hph : s.eng.phase with
  | idle =>
    rw [engineStep_idle hph, engineStep_idle (s := s.withSched l) hph]
    by_cases h : s.invocable = true
    · rw [if_pos h]; exact if_pos h
    · rw [if_neg h]; exact if_neg h
  | s2test => rw [engineStep_s2test hph, engineStep_s2test (s := s.withSched l) hph]; rfl
  | s2loop => rw [engineStep_s2loop hph, engineStep_s2loop (s := s.withSched l) hph, s2loop_withSched]
  | s3test => rw [engineStep_s3test hph, engineStep_s3test (s := s.withSched l) hph]; rfl
  | s3loop => rw [engineStep_s3loop hph, engineStep_s3loop (s := s.withSched l) hph, s3loop_withSched]
  | s4 => rw [engineStep_s4 hph, engineStep_s4 (s := s.withSched l) hph]; rfl
  | s5 => rw [engineStep_s5 hph, engineStep_s5 (s := s.withSched l) hph]; rfl

/-- One engine move of a run. -/
theorem runMoves_engine {s : State} (hp : s.power = .ready) (rest : List Move) :
    s.runMoves (.engine :: rest) = s.engineStep.settle.runMoves rest :=
  runMoves_cons ((act_engine (s := s.withSched rest) hp).trans (congrArg _ (engineStep_withSched s rest)))

theorem runMoves_engine_to {s t : State} (h : s.engineStep.settle = t) (hp : s.power = .ready) (rest : List Move) :
    s.runMoves (.engine :: rest) = t.runMoves rest := by
  rw [runMoves_engine hp, h]

theorem runMoves_engine_settled {s t : State} (ht : t.Settled) (h : s.engineStep = t) (hp : s.power = .ready)
    (rest : List Move) : s.runMoves (.engine :: rest) = t.runMoves rest :=
  runMoves_engine_to (by rw [h, ht]) hp rest

theorem engineStep_keeps (s : State) : s.engineStep.cfg = s.cfg ∧ s.engineStep.power = s.power := by
  rw [engineStep_frame]
  exact ⟨rfl, rfl⟩

/-- A running routine, run alone, is idle again after at most `stepsLeft` steps. -/
theorem runMoves_until_idle (n : Nat) {s : State} (hp : s.power = .ready) (hph : s.eng.phase ≠ .idle)
    (hn : stepsLeft s.cfg.batchLimit s.eng ≤ n) :
    ∃ k t, k ≤ n ∧ s.runMoves (List.replicate k .engine) = .next t ∧ t.eng = ⟨.idle, 0⟩ ∧ t.inService = false := by
  induction n generalizing s with
  | zero => exact absurd (engineStep_advances hph).1 (by omega)
  | succ n ih =>
    obtain ⟨hless, hend⟩ := engineStep_advances hph
    obtain ⟨hcfg, hpower⟩ := engineStep_keeps s
    by_cases hidle : s.engineStep.eng.phase = .idle
    · obtain ⟨heng, hserv⟩ := hend hidle
      exact ⟨1, s.engineStep.settle.withSched [], by omega, runMoves_engine hp [], heng, hserv⟩
    · obtain ⟨k, t, hk, hrun, ht⟩ := ih (s := s.engineStep.settle) (hpower.trans hp) hidle (by
        show stepsLeft s.engineStep.cfg.batchLimit s.engineStep.eng ≤ n
        rw [hcfg]
        omega)
      exact ⟨k + 1, t, by omega, (runMoves_engine hp _).trans hrun, ht⟩

/-- Settles O47: a step that advances has moved; entry and then at most `stepsLeft` steps from S2test. -/
theorem invocationNeverWaitsAndIsBounded : Obligations.InvocationNeverWaitsAndIsBounded := by
  refine ⟨fun s hp hph => ⟨s.engineStep, act_engine hp, fun he => ?_⟩, fun s hp hph hisr hsvc hserv => ?_⟩
  · have hless := (engineStep_advances hph).1
    rw [he] at hless
    exact Nat.lt_irrefl _ hless
  · have henter := enterService_of_invocable hph hp hisr hsvc hserv
    obtain ⟨k, t, hk, hrun, ht⟩ := runMoves_until_idle (6 + s.cfg.batchLimit + s.cfg.batchLimit)
      (s := s.enterService.settle) hp nofun (Nat.le_refl _)
    exact ⟨k + 1, t, Nat.succ_pos k, by omega, (runMoves_engine hp _).trans (henter ▸ hrun), ht⟩

end Sys2Proof.Laws
end

section
/-! PROOF. The starved transmitter (42_transfer_engine.md R115, R116, R126; 95_test_vectors.md X4): an invocation is a
beginning up to the accounting and an end from S3test on; below the threshold it leaves a starved state again. -/

namespace Sys2Proof.Laws

open Sys2Proof
open Sys2Proof.Machine

theorem latchedTxw_of_set {s : State} (h : s.intstcTxw = true) : s.latchedTxw = s.intstcTxw :=
  ((latchedTxw_iff s).mpr (.inl h)).trans h.symm

/-- A settled block between two invocations, with nothing to transmit, room below the ready level and no receive data. -/
structure Starved (s : State) : Prop where
  power : s.power = .ready
  settled : s.Settled
  eng : s.eng = ⟨.idle, 0⟩
  inService : s.inService = false
  isrRegistered : s.isrRegistered = true
  svcPending : s.svcPending = true
  intenTxw : s.intenTxw = true
  empty : s.txring.head = s.txring.tail
  txLow : s.txfifo.length < s.cfg.txReadyLevel
  rxLow : s.rxfifo.length < s.cfg.rxReadyLevel

theorem Starved.intstcTxw {s : State} (h : Starved s) : s.intstcTxw = true :=
  (settled_latched h.settled).1.symm.trans ((latchedTxw_iff s).mpr (.inr ⟨h.power, h.txLow, h.intenTxw⟩))

/-- The accounting does not look at the engine's position. -/
theorem countUnderflow_goPhase (s : State) (p : Phase) :
    (s.goPhase p).countUnderflow = s.countUnderflow.goPhase p := by
  by_cases h : tripReached s.cfg (satInc s.cfg s.txUnderflow) = true
  · rw [show s.countUnderflow = _ from if_pos h]; exact if_pos h
  · rw [show s.countUnderflow = _ from if_neg h]; exact if_neg h

/-- S1, S2test and the one iteration of the S2 loop, up to the accounting. -/
theorem Starved.runMoves_begin {s : State} (h : Starved s) (hwf : s.cfg.wf) (rest : List Move) :
    s.runMoves (.engine :: .engine :: .engine :: rest) =
      (s.enterService.countUnderflow.goPhase .s3test).settle.runMoves rest := by
  obtain ⟨hbatch, _, _, _, _, _, _, _, hdepth, _⟩ := hwf
  have hroom := Nat.lt_of_lt_of_le h.txLow hdepth
  have quiet (p : Phase) : (s.enterService.goPhase p).Settled :=
    settled_congr h.settled rfl rfl rfl rfl rfl rfl rfl rfl
  have henter := enterService_of_invocable (by rw [h.eng]) h.power h.isrRegistered h.svcPending h.inService
  have htest : s.enterService.engineStep = s.enterService.goPhase .s2loop :=
    (engineStep_s2test rfl).trans (s2test_of_low h.txLow)
  have hloop : (s.enterService.goPhase .s2loop).engineStep = s.enterService.countUnderflow.goPhase .s3test := by
    rw [engineStep_s2loop rfl, s2loop_of_empty (s := s.enterService.goPhase .s2loop) hbatch hroom h.empty,
      countUnderflow_goPhase]
    rfl
  calc s.runMoves (.engine :: .engine :: .engine :: rest)
    _ = s.enterService.runMoves (.engine :: .engine :: rest) :=
      runMoves_engine_settled (quiet .s2test) henter h.power _
    _ = (s.enterService.goPhase .s2loop).runMoves (.engine :: rest) :=
      runMoves_engine_settled (quiet .s2loop) htest h.power _
    _ = _ := runMoves_engine_to (congrArg State.settle hloop) h.power rest

/-- The routine from S3test to its end with no receive data: the flags left are those whose condition still holds. -/
theorem runMoves_finish {u : State} (hset : u.Settled) (hp : u.power = .ready) (hph : u.eng = ⟨.s3test, 0⟩)
    (hisr : u.isrRegistered = true) (hsvc : u.svcPending = false) (hrx : u.rxfifo.length < u.cfg.rxReadyLevel)
    (rest : List Move) :
    u.runMoves (.engine :: .engine :: .engine :: rest) =
      State.runMoves
        { u with
          eng := ⟨.idle, 0⟩
          inService := false
          intstcTxw := decide (u.txfifo.length < u.cfg.txReadyLevel) && u.intenTxw
          intstcRxr := false
          svcPending := decide (u.txfifo.length < u.cfg.txReadyLevel) && u.intenTxw } rest := by
  have hnot : ¬ u.cfg.rxReadyLevel ≤ u.rxfifo.length := Nat.not_le.mpr hrx
  have htest : u.engineStep = u.goPhase .s4 := (engineStep_s3test (by rw [hph])).trans (s3test_of_low hrx)
  have quiet : (u.goPhase .s4).Settled := settled_congr hset rfl rfl rfl rfl rfl rfl rfl rfl
  have hack : (u.goPhase .s4).engineStep.settle =
      { u with
        eng := ⟨.s5, 0⟩
        intstcTxw := decide (u.txfifo.length < u.cfg.txReadyLevel) && u.intenTxw
        intstcRxr := false
        svcPending := decide (u.txfifo.length < u.cfg.txReadyLevel) && u.intenTxw } := by
    rw [engineStep_s4 rfl, acknowledge_eq]
    simp [State.settle, State.latchedTxw, State.latchedRxr, State.risingEdge, State.irqLine, State.live, State.txw,
      State.rxr, hp, hisr, hsvc, hnot, State.goPhase]
  have hleft : (u.goPhase .s4).engineStep.settle.leaveService.Settled :=
    settled_congr (settle_settled (u.goPhase .s4).engineStep) rfl rfl rfl rfl rfl rfl rfl rfl
  rw [hack] at hleft
  exact (runMoves_engine_settled quiet htest hp _).trans
    ((runMoves_engine_to hack hp _).trans (runMoves_engine_settled hleft (engineStep_s5 rfl) hp rest))

/-- One invocation of a starved transmitter below the threshold: one more underflow, and pending again. -/
theorem Starved.runMoves_invocation {s : State} (h : Starved s) (hwf : s.cfg.wf)
    (hlow : s.txUnderflow + 1 < s.cfg.threshold) (rest : List Move) :
    ∃ t, s.runMoves (List.replicate 6 .engine ++ rest) = t.runMoves rest ∧ Starved t ∧ t.cfg = s.cfg ∧
      t.txUnderflow = s.txUnderflow + 1 ∧ t.csTxon = s.csTxon ∧ t.txfifo = s.txfifo := by
  obtain ⟨_, _, hmax, _, _, _, _, _, hdepth, _⟩ := id hwf
  have hroom := Nat.lt_of_lt_of_le h.txLow hdepth
  have hmin : min (s.txUnderflow + 1) s.cfg.counterMax = s.txUnderflow + 1 := by omega
  have hcount : s.enterService.countUnderflow = { s.enterService with txUnderflow := s.txUnderflow + 1 } := by
    rw [countUnderflow_of_lt (s := s.enterService) hroom (hmin.symm ▸ hlow)]
    simp only [State.enterService, hmin]
  have hset : State.Settled { s.enterService with txUnderflow := s.txUnderflow + 1, eng := ⟨.s3test, 0⟩ } :=
    settled_congr h.settled rfl rfl rfl rfl rfl rfl rfl rfl
  have hbegin := h.runMoves_begin hwf (.engine :: .engine :: .engine :: rest)
  rw [hcount] at hbegin
  refine ⟨_, hbegin.trans ((congrArg (State.runMoves · _) hset).trans
    (runMoves_finish hset h.power rfl h.isrRegistered rfl h.rxLow rest)), ?_, rfl, rfl, rfl, rfl⟩
  have hflag : (decide (s.txfifo.length < s.cfg.txReadyLevel) && s.intenTxw) = true := by
    simp [h.txLow, h.intenTxw]
  refine ⟨h.power, settled_of_latched ?_ ?_, rfl, rfl, h.isrRegistered, hflag, h.intenTxw, h.empty, h.txLow, h.rxLow⟩
  · exact latchedTxw_of_set hflag
  · simp [State.latchedRxr, State.rxr, State.enterService, Nat.not_le.mpr h.rxLow]

/-- `k` invocations below the threshold. -/
theorem Starved.runMoves_invocations (k : Nat) {s : State} (h : Starved s) (hwf : s.cfg.wf)
    (hlow : s.txUnderflow + k < s.cfg.threshold) (rest : List Move) :
    ∃ t, s.runMoves (List.replicate (6 * k) .engine ++ rest) = t.runMoves rest ∧ Starved t ∧ t.cfg = s.cfg ∧
      t.txUnderflow = s.txUnderflow + k ∧ t.csTxon = s.csTxon ∧ t.txfifo = s.txfifo := by
  induction k generalizing s with
  | zero => exact ⟨s, rfl, h, rfl, rfl, rfl, rfl⟩
  | succ k ih =>
    obtain ⟨u, hu, hsu, hcfg, hcount, hon, hfifo⟩ :=
      h.runMoves_invocation hwf (by omega) (List.replicate (6 * k) .engine ++ rest)
    obtain ⟨t, ht, hst, hcfg', hcount', hon', hfifo'⟩ := ih hsu (hcfg.symm ▸ hwf) (by rw [hcfg, hcount]; omega)
    refine ⟨t, ?_, hst, hcfg'.trans hcfg, by omega, hon'.trans hon, hfifo'.trans hfifo⟩
    rw [Nat.mul_succ, Nat.add_comm, List.replicate_add, List.append_assoc, hu, ht]

/-- The invocation that reaches the threshold (R116). -/
theorem Starved.runMoves_trip {s : State} (h : Starved s) (hwf : s.cfg.wf)
    (htrip : s.txUnderflow + 1 = s.cfg.threshold) :
    ∃ t, s.runMoves (List.replicate 6 .engine) = .next t ∧ t.txUnderflow = 0 ∧ t.csTxon = false ∧
      t.txfifo = (s.txfifo ++ [0#32, 0#32]).take s.cfg.hwFifoDepth ∧
      (s.cfg.txReadyLevel ≤ t.txfifo.length → t.svcPending = false) := by
  obtain ⟨_, _, hmax, _, _, _, _, _, hdepth, _⟩ := id hwf
  have hroom := Nat.lt_of_lt_of_le h.txLow hdepth
  have hcount := countUnderflow_of_trip (s := s.enterService) hroom (by
    show s.cfg.threshold ≤ min (s.txUnderflow + 1) s.cfg.counterMax
    omega)
  have hset : State.Settled (s.enterService.countUnderflow.goPhase .s3test) := by
    rw [hcount]
    refine settled_of_latched ?_ (settled_latched h.settled).2
    exact latchedTxw_of_set h.intstcTxw
  have hbegin := (h.runMoves_begin hwf [.engine, .engine, .engine]).trans (congrArg (State.runMoves · _) hset)
  rw [hcount] at hset hbegin
  refine ⟨_, hbegin.trans (runMoves_finish hset h.power rfl h.isrRegistered rfl h.rxLow []), rfl, rfl, rfl,
    fun hlevel => Bool.and_eq_false_iff.mpr (.inl (decide_eq_false (Nat.not_lt.mpr hlevel)))⟩

/-- Settles O48: `k` invocations below the threshold, or one fewer and the trip. -/
theorem starvedTransmitTripsAtThreshold : Obligations.StarvedTransmitTripsAtThreshold := by
  intro s k hwf hp hset heng hserv hisr hsvc hinten hsched hempty htx hrx hzero hk hle
  have h : Starved s := ⟨hp, hset, heng, hserv, hisr, hsvc, hinten, hempty, htx, hrx⟩
  by_cases hlt : k < s.cfg.threshold
  · obtain ⟨t, ht, hst, _, hcount, hon, hfifo⟩ := h.runMoves_invocations k hwf (by omega) []
    rw [List.append_nil] at ht
    exact ⟨t.withSched [], ht, fun _ => ⟨by rw [← Nat.zero_add k, ← hzero]; exact hcount, hon, hfifo, hst.svcPending⟩,
      fun he => absurd he (Nat.ne_of_lt hlt)⟩
  · obtain ⟨j, rfl⟩ : ∃ j, k = j + 1 := ⟨k - 1, by omega⟩
    obtain ⟨u, hu, hsu, hcfg, hcount, _, hfifo⟩ :=
      h.runMoves_invocations j hwf (by omega) (List.replicate 6 .engine)
    obtain ⟨t, ht, hz, hoff, hzeros, hpend⟩ := hsu.runMoves_trip (hcfg.symm ▸ hwf) (by rw [hcfg, hcount]; omega)
    refine ⟨t, ?_, fun h => absurd h hlt, fun _ => ⟨hz, hoff, ?_, ?_⟩⟩
    · rw [Nat.mul_succ, List.replicate_add, hu, ht]
    · rw [hzeros, hcfg, hfifo]
    · rwa [hcfg] at hpend

end Sys2Proof.Laws
end

section
/-! PROOF. Operations run alone (43_session_entry.md R132, R133; 44_commands.md R143, R144): a request and the steps of
its operation, with no other agent between them. -/

namespace Sys2Proof.Laws

open Sys2Proof
open Sys2Proof.Machine

/-! ### Requests and host moves of a run -/

theorem act_issue {s : State} {i : Instr} (hs : s.Issuable) (hi : i.wellFormed = true) :
    s.act (.issue s.caller (encode i)) = exec i s := by
  rw [act_move _ (by simp [hs.1])]
  exact issue_of_decode s (decodeEncodeRoundTrip i hi)

/-- An issued request whose result the latches leave alone. -/
theorem runMoves_issue {s t : State} {i : Instr} {rest : List Move} (ht : t.Settled) (hs : s.Issuable)
    (hi : i.wellFormed = true) (h : exec i (s.withSched rest) = .next (t.withSched rest)) :
    s.runMoves (.issue s.caller (encode i) :: rest) = t.runMoves rest :=
  runMoves_cons_settled ((act_issue (s := s.withSched rest) hs hi).trans h) ht

/-- A step of the operation in flight whose result the latches leave alone. -/
theorem runMoves_host {s t : State} {rest : List Move} (ht : t.Settled) (hp : s.power = .ready)
    (h : (s.withSched rest).hostStep = .next (t.withSched rest)) :
    s.runMoves (.host :: rest) = t.runMoves rest :=
  runMoves_cons_settled ((act_host (s := s.withSched rest) hp).trans h) ht

/-- What leaves FIFOs, flags and enables alone leaves a settled block settled. -/
theorem Settled_of_same {s t : State} (h : s.Settled)
    (same : t.cfg = s.cfg ∧ t.power = s.power ∧ t.txfifo = s.txfifo ∧ t.rxfifo = s.rxfifo ∧
      t.intenTxw = s.intenTxw ∧ t.intenRxr = s.intenRxr ∧ t.intstcTxw = s.intstcTxw ∧ t.intstcRxr = s.intstcRxr) :
    t.Settled := by
  obtain ⟨hc, hp, htx, hrx, h1, h2, h3, h4⟩ := same
  exact settled_congr h hc hp (by rw [htx]) (by rw [hrx]) h1 h2 h3 h4

/-! ### `READ` -/

theorem readIter_settled {s : State} (h : s.Settled) (p : ProcId) (w : Nat) (got : List Byte) :
    (s.readIter p w got).Settled := by
  rw [readIter_frame]
  exact Settled_of_same h ⟨rfl, rfl, rfl, rfl, rfl, rfl, rfl, rfl⟩

theorem readIter_withSched (s : State) (p : ProcId) (w : Nat) (got : List Byte) (l : List Move) :
    (s.withSched l).readIter p w got = (s.readIter p w got).withSched l := by
  obtain ⟨h, e⟩ | ⟨hw, hne, e⟩ := readIter_cases s p w got <;> rw [e]
  · exact readIter_of_done (s := s.withSched l) p got h
  · exact readIter_of_more (s := s.withSched l) p got hw hne

theorem runMoves_host_read {s : State} {p : ProcId} {w : Nat} {got : List Byte} (hset : s.Settled)
    (hop : s.hostop = some ⟨p, .read w got⟩) (hp : s.power = .ready) (rest : List Move) :
    s.runMoves (.host :: rest) = (s.readIter p w got).runMoves rest :=
  runMoves_host (readIter_settled hset p w got) hp
    ((hostStep_read (s := s.withSched rest) hop).trans (congrArg _ (readIter_withSched s p w got rest)))

/-- A `READ` from any of its steps on, alone: `m` more samples, as many as are wanted and held, then the response. -/
theorem runMoves_readIter (m : Nat) {s : State} (hset : s.Settled) (hp : s.power = .ready)
    (hok : s.rxring.Ok s.cfg.nRx) (p : ProcId) {w : Nat} (got : List Byte)
    (hm : m = min w (s.rxring.itemCount s.cfg.nRx)) (rest : List Move) :
    (s.readIter p w got).runMoves (List.replicate m .host ++ rest) =
      State.runMoves
        { s with
          rxring := { s.rxring with tail := (s.rxring.tail + m) % (s.cfg.nRx + 1) }
          hostop := none
          responses := s.responses ++ [(p, Response.okBytes (got ++ s.rxContents.take m))] } rest := by
  induction m generalizing s w got with
  | zero =>
    obtain ⟨hh, ht, _⟩ := id hok
    have hzero := itemCount_eq_zero hh ht
    have hdone : w = 0 ∨ s.rxring.head = s.rxring.tail := by omega
    rw [readIter_of_done p got hdone, Nat.add_zero, Nat.mod_eq_of_lt (Nat.lt_succ_of_le ht), List.take_zero,
      List.append_nil]
    rfl
  | succ m ih =>
    obtain ⟨hh, ht, _⟩ := id hok
    have hzero := itemCount_eq_zero hh ht
    have hw : w ≠ 0 := by omega
    have hne : s.rxring.head ≠ s.rxring.tail := by omega
    have hcount := read_itemCount hh ht hne
    have hiter := readIter_of_more p got hw hne
    have hset' := readIter_settled hset p w got
    rw [hiter] at hset' ⊢
    have hleft : m = min (w - 1)
        (Ring.itemCount s.cfg.nRx ⟨s.rxring.slots, s.rxring.head, (s.rxring.tail + 1) % (s.cfg.nRx + 1)⟩) := by omega
    have htail : ((s.rxring.tail + 1) % (s.cfg.nRx + 1) + m) % (s.cfg.nRx + 1) =
        (s.rxring.tail + (m + 1)) % (s.cfg.nRx + 1) := read_live_index
    have hbytes : got ++ [s.rxring.slot s.rxFree s.rxring.tail] ++ List.take m
        (Ring.contents s.cfg.nRx s.rxFree
          ⟨s.rxring.slots, s.rxring.head, (s.rxring.tail + 1) % (s.cfg.nRx + 1)⟩) =
        got ++ s.rxContents.take (m + 1) := by
      rw [State.rxContents, read_contents s.rxFree hh ht hne, List.take_succ_cons]
      exact (List.append_cons _ _ _).symm
    rw [List.replicate_succ, List.cons_append, runMoves_host_read hset' rfl hp, ih hset' hp (read_ok hok) _ hleft,
      ← htail, ← hbytes]
    rfl

theorem length_rxContents (s : State) : s.rxContents.length = s.rxring.itemCount s.cfg.nRx :=
  contents_length _ _ _

/-- Settles O13: the issue is the first step of a `READ` that wants `maxBytes` and has collected nothing. -/
theorem readReturnsOldestSamples : Obligations.ReadReturnsOldestSamples := by
  intro s maxBytes n hs hset hsched hok hn
  obtain ⟨hp, _, _, hop, _⟩ := id hs
  have hissue := runMoves_issue (readIter_settled hset s.caller maxBytes.toNat []) hs rfl
    ((exec_read (s := s.withSched (List.replicate n .host)) maxBytes hs).trans
      (congrArg _ (readIter_withSched _ _ _ _ _)))
  have hrun := runMoves_readIter n hset hp hok s.caller [] hn []
  have hlen : (s.rxContents.take n).length = n := by
    rw [List.length_take, length_rxContents]
    omega
  rw [List.append_nil] at hrun
  rw [hissue, hrun]
  simp only [runMoves_nil, State.withSched, Response.okBytes, countValue, List.nil_append, hlen, ← hop, hsched]

/-! ### `WRITE` -/

/-- What the ring holds after samples have been offered to it one by one, a sample being dropped on a full ring. -/
def offerAll (n : Nat) (samples : List Byte) (r : Ring) : Ring :=
  samples.foldl (fun q b => (q.tryWrite n b).getD q) r

/-- Of the samples offered, as many as there is room for are appended. -/
theorem offerAll_spec {n : Nat} (free : Nat → Byte) (samples : List Byte) {r : Ring} (hok : r.Ok n) :
    (offerAll n samples r).tail = r.tail ∧
      (offerAll n samples r).contents n free = r.contents n free ++ samples.take (r.remainingSpace n) := by
  induction samples generalizing r with
  | nil => exact ⟨rfl, by rw [List.take_nil, List.append_nil]; rfl⟩
  | cons b rest ih =>
    obtain ⟨hh, ht, _⟩ := id hok
    have hsum := count_add_space n r
    by_cases hfull : (r.head + 1) % (n + 1) = r.tail
    · have hspace : r.remainingSpace n = 0 := by
        have := (isFull_iff hh ht).mp hfull
        omega
      have hsame : offerAll n (b :: rest) r = offerAll n rest r := by
        simp [offerAll, tryWrite_eq_none_iff.mpr hfull]
      have := ih hok
      rw [hspace, List.take_zero] at this ⊢
      rwa [hsame]
    · have hcount := write_itemCount (r.slots.write r.head b) hh ht hfull
      have hstore : offerAll n (b :: rest) r =
          offerAll n rest ⟨r.slots.write r.head b, (r.head + 1) % (n + 1), r.tail⟩ := by
        rw [offerAll, List.foldl_cons, tryWrite_eq_some_iff.mpr ⟨hfull, rfl⟩]
        rfl
      obtain ⟨htail, hcont⟩ := ih (write_ok b hok)
      have hspace := count_add_space n ⟨r.slots.write r.head b, (r.head + 1) % (n + 1), r.tail⟩
      have hleft : r.remainingSpace n =
          Ring.remainingSpace n ⟨r.slots.write r.head b, (r.head + 1) % (n + 1), r.tail⟩ + 1 := by
        omega
      rw [hstore]
      refine ⟨htail, ?_⟩
      rw [hcont, write_contents free b hh ht hfull, hleft, List.take_succ_cons, List.append_assoc]
      rfl

theorem writeIter_of_byte {payload : List Byte} {k : Nat} {b : Byte} (s : State) (p : ProcId)
    (h : payload[k]? = some b) :
    s.writeIter p payload k =
      { s with
        txring := (s.txring.tryWrite s.cfg.nTx b).getD s.txring
        hostop := some ⟨p, .write payload (k + 1)⟩ } := by
  simp only [State.writeIter, h]
  rfl

theorem writeIter_of_end {payload : List Byte} {k : Nat} (s : State) (p : ProcId) (h : payload[k]? = none) :
    s.writeIter p payload k =
      { s with
        hostop := none
        responses := s.responses ++ [(p, Response.okValue (countValue payload.length))] } := by
  simp only [State.writeIter, h]
  rfl

/-- A `WRITE` in flight, alone, from its byte `k` on. -/
theorem runMoves_write {payload : List Byte} (samples : List Byte) {s : State} (hset : s.Settled)
    (hp : s.power = .ready) {p : ProcId} {k : Nat} (hop : s.hostop = some ⟨p, .write payload k⟩)
    (hdrop : payload.drop k = samples) (rest : List Move) :
    s.runMoves (List.replicate (samples.length + 1) .host ++ rest) =
      State.runMoves
        { s with
          txring := offerAll s.cfg.nTx samples s.txring
          hostop := none
          responses := s.responses ++ [(p, Response.okValue (countValue payload.length))] } rest := by
  induction samples generalizing s k with
  | nil =>
    have hend : payload[k]? = none := List.getElem?_eq_none (List.drop_eq_nil_iff.mp hdrop)
    exact runMoves_host (Settled_of_same hset ⟨rfl, rfl, rfl, rfl, rfl, rfl, rfl, rfl⟩) hp
      ((hostStep_write (s := s.withSched rest) hop).trans (congrArg _ (writeIter_of_end _ p hend)))
  | cons b samples ih =>
    have hbyte : payload[k]? = some b := by rw [← List.head?_drop, hdrop]; rfl
    have hnext : payload.drop (k + 1) = samples := by rw [← List.tail_drop, hdrop]; rfl
    have hset' : State.Settled
        { s with
          txring := (s.txring.tryWrite s.cfg.nTx b).getD s.txring
          hostop := some ⟨p, .write payload (k + 1)⟩ } :=
      Settled_of_same hset ⟨rfl, rfl, rfl, rfl, rfl, rfl, rfl, rfl⟩
    have hstep := runMoves_host hset' hp
      ((hostStep_write (s := s.withSched (List.replicate (samples.length + 1) .host ++ rest)) hop).trans
        (congrArg _ (writeIter_of_byte _ p hbyte)))
    rw [List.length_cons, List.replicate_succ, List.cons_append, hstep, ih hset' hp rfl hnext]
    rfl

theorem exec_write_of_room {s : State} (payload : List Byte) (hs : s.Issuable)
    (hroom : s.txring.remainingSpace s.cfg.nTx ≠ 0) :
    exec (.write payload) s = .next { s with hostop := some ⟨s.caller, .write payload 0⟩ } :=
  (writeStarts s payload hs).2 hroom

/-- Settles O16: W0 with room leaves the operation at byte 0, and then every byte is offered. -/
theorem writeAppendsInOrder : Obligations.WriteAppendsInOrder := by
  intro s payload hs hset hsched hok hlen hroom
  obtain ⟨hp, _, _, hop, _⟩ := id hs
  have hset' : State.Settled { s with hostop := some ⟨s.caller, .write payload 0⟩ } :=
    Settled_of_same hset ⟨rfl, rfl, rfl, rfl, rfl, rfl, rfl, rfl⟩
  have hrun := runMoves_write payload hset' hp rfl List.drop_zero []
  rw [List.append_nil] at hrun
  obtain ⟨htail, hcont⟩ := offerAll_spec s.txFree payload hok
  have hissue := runMoves_issue (i := .write payload) hset' hs (decide_eq_true hlen)
    (exec_write_of_room (s := s.withSched (List.replicate (payload.length + 1) .host)) payload hs hroom)
  refine ⟨_, hissue.trans (hrun.trans (runMoves_nil _)), ?_, htail, hcont⟩
  simp only [State.withSched, ← hop, hsched]
  rfl

/-! ### The FIFO clears -/

/-- A FIFO that has become empty is below the level it was below. -/
theorem settled_rxfifo_nil {s : State} (h : s.Settled) : State.Settled { s with rxfifo := [] } := by
  obtain ⟨htx, hrx⟩ := settled_latched h
  refine settled_of_latched htx (Bool.eq_iff_iff.mpr ((latchedRxr_iff _).trans ⟨?_, .inl⟩))
  rintro (hset | ⟨hp, hlevel, hen⟩)
  · exact hset
  · exact hrx ▸ (latchedRxr_iff s).mpr (.inr ⟨hp, Nat.le_trans hlevel (Nat.zero_le _), hen⟩)

/-- `CLR_TX_FIFO` of the process on the port is at step `next`: the enable is saved, and 0. -/
def inClrTx (next : ClearStep) (s : State) : State :=
  { s with csTxon := false, hostop := some ⟨s.caller, .clrTx next s.csTxon⟩ }

/-- `CLR_RX_FIFO` of the process on the port is at step `next`. -/
def inClrRx (next : ClearStep) (s : State) : State :=
  { s with csRxon := false, hostop := some ⟨s.caller, .clrRx next s.csRxon⟩ }

/-- What F4 leaves of the state before the request: the response, and nothing in flight. -/
def afterClr (s : State) : State :=
  { s with hostop := none, responses := s.responses ++ [(s.caller, Response.okPlain)] }

theorem afterClr_settled {s : State} (h : s.Settled) : (afterClr s).Settled :=
  Settled_of_same h ⟨rfl, rfl, rfl, rfl, rfl, rfl, rfl, rfl⟩

theorem hostStep_inClrTx_f2 (s : State) :
    (inClrTx .f2 s).hostStep = .next (inClrTx .f3 { s with txclrPending := true }) := by
  rw [hostStep_clrTx rfl, State.clearTxStep, if_neg (by simp [inClrTx])]
  simp [inClrTx, State.setOp]

theorem hostStep_inClrTx_f3 {s : State} (h : s.txclrPending = false) :
    (inClrTx .f3 s).hostStep = .next (inClrTx .f4 s) := by
  rw [hostStep_clrTx rfl, State.clearTxStep, if_neg (by simp [inClrTx, h])]
  rfl

theorem hostStep_inClrTx_f4 (s : State) : (inClrTx .f4 s).hostStep = .next (afterClr s) := by
  rw [hostStep_clrTx rfl, State.clearTxStep]
  cases hon : s.csTxon <;> simp [inClrTx, afterClr, State.respond, State.endOp, hon]

theorem inClrTx_settled {s : State} (h : s.Settled) (next : ClearStep) : (inClrTx next s).Settled :=
  Settled_of_same h ⟨rfl, rfl, rfl, rfl, rfl, rfl, rfl, rfl⟩

/-- F1 and F2 of a run, up to the wait. -/
theorem runMoves_clrTx_request {s : State} (hset : s.Settled) (hs : s.Issuable) (rest : List Move) :
    s.runMoves (.issue s.caller (encode .clrTxFifo) :: .host :: rest) =
      (inClrTx .f3 { s with txclrPending := true }).runMoves rest := by
  have hpend : State.Settled { s with txclrPending := true } :=
    Settled_of_same hset ⟨rfl, rfl, rfl, rfl, rfl, rfl, rfl, rfl⟩
  rw [runMoves_issue (inClrTx_settled hset .f2) hs rfl (fifoClearDisablesFirst (s.withSched (.host :: rest)) hs).1,
    runMoves_host (s := inClrTx .f2 s) (rest := rest) (inClrTx_settled hpend .f3) hs.1 (hostStep_inClrTx_f2 (s.withSched rest))]

/-- F3 and F4 of a run, once the clear has been performed. -/
theorem runMoves_clrTx_finish {s : State} (hset : s.Settled) (hp : s.power = .ready)
    (hdone : s.txclrPending = false) :
    (inClrTx .f3 s).runMoves [.host, .host] = (afterClr s).runMoves [] := by
  rw [runMoves_host (s := inClrTx .f3 s) (rest := [.host]) (inClrTx_settled hset .f4) hp
      (hostStep_inClrTx_f3 (s := s.withSched [.host]) hdone),
    runMoves_host (s := inClrTx .f4 s) (rest := []) (afterClr_settled hset) hp (hostStep_inClrTx_f4 (s.withSched []))]

theorem hostStep_inClrRx_f2 (s : State) :
    (inClrRx .f2 s).hostStep = .next (inClrRx .f3 { s with rxclrPending := true }) := by
  rw [hostStep_clrRx rfl, State.clearRxStep, if_neg (by simp [inClrRx])]
  simp [inClrRx, State.setOp]

theorem hostStep_inClrRx_f3 {s : State} (h : s.rxclrPending = false) :
    (inClrRx .f3 s).hostStep = .next (inClrRx .f4 s) := by
  rw [hostStep_clrRx rfl, State.clearRxStep, if_neg (by simp [inClrRx, h])]
  rfl

theorem hostStep_inClrRx_f4 (s : State) : (inClrRx .f4 s).hostStep = .next (afterClr s) := by
  rw [hostStep_clrRx rfl, State.clearRxStep]
  cases hon : s.csRxon <;> simp [inClrRx, afterClr, State.respond, State.endOp, hon]

theorem inClrRx_settled {s : State} (h : s.Settled) (next : ClearStep) : (inClrRx next s).Settled :=
  Settled_of_same h ⟨rfl, rfl, rfl, rfl, rfl, rfl, rfl, rfl⟩

/-- F1 and F2 of a run, up to the wait. -/
theorem runMoves_clrRx_request {s : State} (hset : s.Settled) (hs : s.Issuable) (rest : List Move) :
    s.runMoves (.issue s.caller (encode .clrRxFifo) :: .host :: rest) =
      (inClrRx .f3 { s with rxclrPending := true }).runMoves rest := by
  have hpend : State.Settled { s with rxclrPending := true } :=
    Settled_of_same hset ⟨rfl, rfl, rfl, rfl, rfl, rfl, rfl, rfl⟩
  rw [runMoves_issue (inClrRx_settled hset .f2) hs rfl (fifoClearDisablesFirst (s.withSched (.host :: rest)) hs).2,
    runMoves_host (s := inClrRx .f2 s) (rest := rest) (inClrRx_settled hpend .f3) hs.1 (hostStep_inClrRx_f2 (s.withSched rest))]

/-- F3 and F4 of a run, once the clear has been performed. -/
theorem runMoves_clrRx_finish {s : State} (hset : s.Settled) (hp : s.power = .ready)
    (hdone : s.rxclrPending = false) :
    (inClrRx .f3 s).runMoves [.host, .host] = (afterClr s).runMoves [] := by
  rw [runMoves_host (s := inClrRx .f3 s) (rest := [.host]) (inClrRx_settled hset .f4) hp
      (hostStep_inClrRx_f3 (s := s.withSched [.host]) hdone),
    runMoves_host (s := inClrRx .f4 s) (rest := []) (afterClr_settled hset) hp (hostStep_inClrRx_f4 (s.withSched []))]

/-- Settles O21: F1 and F2 disable and request, `ClearTx` empties and its step latches, F3 and F4 restore. -/
theorem txFifoClearCompletes : Obligations.TxFifoClearCompletes := by
  intro s hs hset hsched hclk
  obtain ⟨hp, _, _, hop, _⟩ := id hs
  have hclear : ((inClrTx .f3 { s with txclrPending := true }).withSched [.host, .host]).act .clearTx =
      .next ((inClrTx .f3 { s with txfifo := [], txclrPending := false }).withSched [.host, .host]) :=
    (clearUnitEmptiesFifos _ (by simp [State.withSched, inClrTx, hp])).1 hp hclk rfl
  have hfinish := runMoves_clrTx_finish (settle_settled { s with txfifo := [], txclrPending := false }) hp rfl
  rw [runMoves_clrTx_request hset hs, runMoves_cons hclear]
  refine hfinish.trans ?_
  simp only [runMoves_nil, State.withSched, afterClr, ← hop, hsched]
  simp only [State.settle]
  rfl

/-- Settles O22: likewise; the ready condition of an emptied FIFO only falls. -/
theorem rxFifoClearCompletes : Obligations.RxFifoClearCompletes := by
  intro s hs hset hsched hclk
  obtain ⟨hp, _, _, hop, _⟩ := id hs
  have hclear : ((inClrRx .f3 { s with rxclrPending := true }).withSched [.host, .host]).act .clearRx =
      .next ((inClrRx .f3 { s with rxfifo := [], rxclrPending := false }).withSched [.host, .host]) :=
    (clearUnitEmptiesFifos _ (by simp [State.withSched, inClrRx, hp])).2.2.1 hp hclk rfl
  have hempty : State.Settled { s with rxfifo := [], rxclrPending := false } :=
    Settled_of_same (settled_rxfifo_nil hset) ⟨rfl, rfl, rfl, rfl, rfl, rfl, rfl, rfl⟩
  rw [runMoves_clrRx_request hset hs, runMoves_cons_settled hclear (inClrRx_settled hempty .f3),
    runMoves_clrRx_finish hempty hp rfl]
  simp only [runMoves_nil, State.withSched, afterClr, ← hop, hsched]
  rfl

end Sys2Proof.Laws
end

section
/-! PROOF. The Call Session Manager's sequences run alone (45_call_session.md R162 to R164): a line issues its request
and, once there is a response, the next line follows. -/

namespace Sys2Proof.Laws

open Sys2Proof
open Sys2Proof.Machine

/-- The process on the port runs a pseudo-operation that is at line `pos`, its request issued when there were `since`
responses. -/
def atLine (pos : CallPos) (since : Option Nat) (s : State) : State :=
  { s with call := some ⟨s.caller, pos, since⟩ }

theorem atLine_settled {s : State} (h : s.Settled) (pos : CallPos) (since : Option Nat) :
    (atLine pos since s).Settled :=
  Settled_of_same h ⟨rfl, rfl, rfl, rfl, rfl, rfl, rfl, rfl⟩

/-- A pseudo-operation begins. -/
theorem runMoves_beginCall {s : State} (hset : s.Settled) (hp : s.power = .ready) (hc : s.call = none) (op : PseudoOp)
    (rest : List Move) :
    s.runMoves (.beginCall s.caller op :: rest) = (atLine op.start none s).runMoves rest := by
  refine runMoves_cons_settled ?_ (atLine_settled hset op.start none)
  rw [act_move _ (by simp [State.withSched, hp])]
  simp [State.move, State.startCall, State.withSched, atLine, hc]

/-- A line issues its request. -/
theorem runMoves_call_issue {s t : State} {pos : CallPos} {i : Instr} {rest : List Move} (hp : s.power = .ready)
    (hreq : pos.request s.cfg = some i) (hi : i.wellFormed = true) (ht : t.Settled)
    (h : exec i ((atLine pos (some s.responses.length) s).withSched rest) = .next (t.withSched rest)) :
    (atLine pos none s).runMoves (.call :: rest) = t.runMoves rest := by
  refine runMoves_cons_settled ?_ ht
  rw [act_move _ (by simp [State.withSched, atLine, hp]), ← h]
  have hissue := issue_of_decode (p := s.caller) ((atLine pos (some s.responses.length) s).withSched rest)
    (decodeEncodeRoundTrip i hi)
  refine Eq.trans ?_ hissue
  simp only [State.move, State.callStep, State.withSched, atLine, State.callIssue, hreq]

theorem responseSince_last {s : State} {before : List (ProcId × Response)} {p : ProcId} {r : Response}
    (h : s.responses = before ++ [(p, r)]) : s.responseSince p before.length = some r := by
  simp [State.responseSince, h]

/-- A line whose response has come gives way to the next. -/
theorem runMoves_call_response {s : State} (hset : s.Settled) (hp : s.power = .ready) (pos : CallPos)
    {before : List (ProcId × Response)} {r : Response} (h : s.responses = before ++ [(s.caller, r)])
    (rest : List Move) :
    (atLine pos (some before.length) s).runMoves (.call :: rest) =
      (atLine (pos.afterResponse s.cfg r) none s).runMoves rest := by
  refine runMoves_cons_settled ?_ (atLine_settled hset _ none)
  rw [act_move _ (by simp [State.withSched, atLine, hp])]
  have hr : ((atLine pos (some before.length) s).withSched rest).responseSince s.caller before.length = some r :=
    responseSince_last h
  simp only [State.move, State.callStep, atLine, State.withSched] at hr ⊢
  rw [hr]

/-- A line whose request is answered at once with `r`, and what follows from the answer. The request leaves `t`, and
the sequence is at the line after. -/
theorem runMoves_call_answered {s t : State} {pos next : CallPos} {i : Instr} {r : Response} (hset : t.Settled)
    (hs : s.Issuable) (hpower : t.power = .ready) (hreq : pos.request s.cfg = some i) (hi : i.wellFormed = true)
    (hcaller : t.caller = s.caller) (hresp : t.responses = s.responses ++ [(s.caller, r)])
    (hnext : pos.afterResponse t.cfg r = next) (rest : List Move)
    (h : exec i ((atLine pos (some s.responses.length) s).withSched (.call :: rest)) =
      .next ((atLine pos (some s.responses.length) t).withSched (.call :: rest))) :
    (atLine pos none s).runMoves (.call :: .call :: rest) = (atLine next none t).runMoves rest := by
  rw [runMoves_call_issue hs.1 hreq hi (atLine_settled hset _ _) h,
    runMoves_call_response hset hpower pos (hcaller.symm ▸ hresp), hnext]

/-! ### `stopSession` -/

/-- `SET_RX_EN(0)` answered. -/
def rxStopped (s : State) : State := (s.csUpdate .rxon false).respond s.caller .okPlain

/-- `SET_TX_EN(0)` answered. -/
def txStopped (s : State) : State := (s.csUpdate .txon false).respond s.caller .okPlain

theorem exec_setRxEn_zero {s : State} (hs : s.Issuable) : exec (.setRxEn 0#32) s = .next (rxStopped s) :=
  whenHolder_issuable _ hs

theorem exec_setTxEn_zero {s : State} (hs : s.Issuable) : exec (.setTxEn 0#32) s = .next (txStopped s) :=
  whenHolder_issuable _ hs

theorem exec_close_idle {s : State} (hs : s.Issuable) (hserv : s.inService = false) :
    exec .closeSession s = .next (s.closeFor s.caller) := by
  rw [exec_close hs, if_neg (by simp [hserv])]

/-- The line of `stopSession` that disables the receiver. -/
theorem runMoves_call_disableReceive {s : State} (hset : s.Settled) (hs : s.Issuable) (rest : List Move) :
    (atLine .disableReceive none s).runMoves (.call :: .call :: rest) =
      (atLine .disableTransmit none (rxStopped s)).runMoves rest :=
  runMoves_call_answered (t := rxStopped s) (i := .setRxEn 0#32) (r := .okPlain)
    (Settled_of_same hset ⟨rfl, rfl, rfl, rfl, rfl, rfl, rfl, rfl⟩) hs hs.1 rfl rfl rfl rfl rfl rest
    (exec_setRxEn_zero (s := (atLine _ _ s).withSched _) hs)

/-- The line that disables the transmitter. -/
theorem runMoves_call_disableTransmit {s : State} (hset : s.Settled) (hs : s.Issuable) (rest : List Move) :
    (atLine .disableTransmit none s).runMoves (.call :: .call :: rest) =
      (atLine .closeDevice none (txStopped s)).runMoves rest :=
  runMoves_call_answered (t := txStopped s) (i := .setTxEn 0#32) (r := .okPlain)
    (Settled_of_same hset ⟨rfl, rfl, rfl, rfl, rfl, rfl, rfl, rfl⟩) hs hs.1 rfl rfl rfl rfl rfl rest
    (exec_setTxEn_zero (s := (atLine _ _ s).withSched _) hs)

/-- The line that closes the session, while the service routine is not running. -/
theorem runMoves_call_closeDevice {s : State} (hset : s.Settled) (hs : s.Issuable) (hserv : s.inService = false)
    (rest : List Move) :
    (atLine .closeDevice none s).runMoves (.call :: .call :: rest) =
      (atLine (.done .success) none (s.closeFor s.caller)).runMoves rest :=
  runMoves_call_answered (t := s.closeFor s.caller) (i := .closeSession) (r := .okPlain)
    (Settled_of_same hset ⟨rfl, rfl, rfl, rfl, rfl, rfl, rfl, rfl⟩) hs hs.1 rfl rfl rfl rfl rfl rest
    (exec_close_idle (s := (atLine _ _ s).withSched _) hs hserv)

/-- Settles O58: three lines, each answered at once. -/
theorem stopSessionDisablesAndCloses : Obligations.StopSessionDisablesAndCloses := by
  intro s hs hset hsched hcall hserv
  obtain ⟨hp, _, _, _, hheld⟩ := id hs
  have hset1 : (rxStopped s).Settled := Settled_of_same hset ⟨rfl, rfl, rfl, rfl, rfl, rfl, rfl, rfl⟩
  have hset2 : (txStopped (rxStopped s)).Settled := Settled_of_same hset1 ⟨rfl, rfl, rfl, rfl, rfl, rfl, rfl, rfl⟩
  have hs1 : (rxStopped s).Issuable := hs
  have hs2 : (txStopped (rxStopped s)).Issuable := hs1
  have hbegin := runMoves_beginCall hset hp hcall .stopSession [.call, .call, .call, .call, .call, .call]
  rw [hbegin, PseudoOp.start, runMoves_call_disableReceive hset hs, runMoves_call_disableTransmit hset1 hs1,
    runMoves_call_closeDevice hset2 hs2 hserv, runMoves_nil]
  simp [rxStopped, txStopped, State.closeFor, atLine, State.respond, State.withSched, hheld, hsched]
  rfl

/-! ### `writeFrame` and `readFrame` -/

/-- `GET_TX_SPACE` answered. -/
def txSpaceTold (s : State) : State :=
  s.respond s.caller (.okValue (countValue (s.txring.remainingSpace s.cfg.nTx)))

/-- `GET_RX_COUNT` answered. -/
def rxCountTold (s : State) : State := s.respond s.caller (.okValue (countValue (s.rxring.itemCount s.cfg.nRx)))

theorem exec_getTxSpace {s : State} (hs : s.Issuable) : exec .getTxSpace s = .next (txSpaceTold s) :=
  whenHolder_issuable _ hs

theorem exec_getRxCount {s : State} (hs : s.Issuable) : exec .getRxCount s = .next (rxCountTold s) :=
  whenHolder_issuable _ hs

/-- A query of the transmit space, and what follows from its answer. -/
theorem runMoves_call_txSpace {s : State} (hset : s.Settled) (hs : s.Issuable) {pos next : CallPos}
    (hreq : pos.request s.cfg = some .getTxSpace)
    (hnext : pos.afterResponse s.cfg (.okValue (countValue (s.txring.remainingSpace s.cfg.nTx))) = next)
    (rest : List Move) :
    (atLine pos none s).runMoves (.call :: .call :: rest) = (atLine next none (txSpaceTold s)).runMoves rest :=
  runMoves_call_answered (t := txSpaceTold s) (Settled_of_same hset ⟨rfl, rfl, rfl, rfl, rfl, rfl, rfl, rfl⟩) hs hs.1
    hreq rfl rfl rfl hnext rest (exec_getTxSpace (s := (atLine _ _ s).withSched _) hs)

/-- A query of the receive count, and what follows from its answer. -/
theorem runMoves_call_rxCount {s : State} (hset : s.Settled) (hs : s.Issuable) {pos next : CallPos}
    (hreq : pos.request s.cfg = some .getRxCount)
    (hnext : pos.afterResponse s.cfg (.okValue (countValue (s.rxring.itemCount s.cfg.nRx))) = next)
    (rest : List Move) :
    (atLine pos none s).runMoves (.call :: .call :: rest) = (atLine next none (rxCountTold s)).runMoves rest :=
  runMoves_call_answered (t := rxCountTold s) (Settled_of_same hset ⟨rfl, rfl, rfl, rfl, rfl, rfl, rfl, rfl⟩) hs hs.1
    hreq rfl rfl rfl hnext rest (exec_getRxCount (s := (atLine _ _ s).withSched _) hs)

/-- What a `WRITE` run alone leaves of the state before it: its samples offered to the ring, and its response. -/
def afterWrite (samples : List Byte) (s : State) : State :=
  { s with
    txring := offerAll s.cfg.nTx samples s.txring
    hostop := none
    responses := s.responses ++ [(s.caller, Response.okValue (countValue samples.length))] }

/-- A line that writes, with room in the ring, up to the end of the sequence. -/
theorem runMoves_call_write {s : State} (hset : s.Settled) (hs : s.Issuable) (samples : List Byte)
    (hfits : samples.length < 4294967296) (hroom : s.txring.remainingSpace s.cfg.nTx ≠ 0) :
    (atLine (.frameWrite samples) none s).runMoves
        (.call :: (List.replicate (samples.length + 1) .host ++ [.call])) =
      (atLine (.done .success) none (afterWrite samples s)).runMoves [] := by
  have hflight : State.Settled
      { atLine (.frameWrite samples) (some s.responses.length) s with
        hostop := some ⟨s.caller, .write samples 0⟩ } :=
    Settled_of_same hset ⟨rfl, rfl, rfl, rfl, rfl, rfl, rfl, rfl⟩
  have hissue := runMoves_call_issue (s := s) (pos := .frameWrite samples) (i := .write samples)
    (rest := List.replicate (samples.length + 1) .host ++ [.call]) hs.1 rfl (decide_eq_true hfits) hflight
    (exec_write_of_room samples hs hroom)
  have hrun := runMoves_write samples hflight hs.1 rfl List.drop_zero [.call]
  have hlast := runMoves_call_response (s := afterWrite samples s)
    (Settled_of_same hset ⟨rfl, rfl, rfl, rfl, rfl, rfl, rfl, rfl⟩) hs.1 (.frameWrite samples) rfl []
  exact hissue.trans (hrun.trans hlast)

/-- Settles O59: the query decides; with room the `WRITE` offers every sample and the ring takes them all. -/
theorem writeFrameNeedsMoreThanAFrame : Obligations.WriteFrameNeedsMoreThanAFrame := by
  intro s samples hs hset hwf hsched hcall hok hlen hfits
  obtain ⟨_, _, _, _, hcap, _⟩ := id hwf
  have hvalue : (countValue (s.txring.remainingSpace s.cfg.nTx)).toNat = s.txring.remainingSpace s.cfg.nTx :=
    countValue_toNat (Nat.sub_le _ _) hcap
  have hquery {next : CallPos} := runMoves_call_txSpace hset hs (pos := .frameSpace samples) (next := next) rfl
  have hbegin := runMoves_beginCall hset hs.1 hcall (.writeFrame samples)
  refine ⟨fun hroom => ?_, fun hnone => ?_⟩
  · have hnext : CallPos.afterResponse s.cfg (.frameSpace samples)
        (.okValue (countValue (s.txring.remainingSpace s.cfg.nTx))) = .frameWrite samples :=
      if_pos (by rw [Response.okValue, hvalue]; exact hroom)
    rw [← hlen] at hroom hfits ⊢
    have hset' : (txSpaceTold s).Settled := Settled_of_same hset ⟨rfl, rfl, rfl, rfl, rfl, rfl, rfl, rfl⟩
    have hwrite := runMoves_call_write (s := txSpaceTold s) hset' hs samples hfits (Nat.ne_zero_of_lt hroom)
    have hcont := (offerAll_spec s.txFree samples hok).2
    rw [List.take_of_length_le (Nat.le_of_lt hroom)] at hcont
    refine ⟨(atLine (.done .success) none (afterWrite samples (txSpaceTold s))).withSched [], ?_, ?_, ?_, ?_⟩
    · simp only [List.cons_append, List.nil_append]
      rw [hbegin, PseudoOp.start, hquery hnext, hwrite, runMoves_nil]
    · simp only [State.withSched, atLine, afterWrite, txSpaceTold, State.respond]
    · simp only [State.txContents, State.txFree, State.withSched, atLine, afterWrite, txSpaceTold, State.respond]
      exact hcont
    · simp only [State.withSched, atLine, afterWrite, txSpaceTold, State.respond]
  · have hnext : CallPos.afterResponse s.cfg (.frameSpace samples)
        (.okValue (countValue (s.txring.remainingSpace s.cfg.nTx))) = .done (.failed .wouldBlock) :=
      if_neg (by rw [Response.okValue, hvalue]; exact Nat.not_lt.mpr hnone)
    refine ⟨(atLine (.done (.failed .wouldBlock)) none (txSpaceTold s)).withSched [], ?_, ?_⟩
    · rw [hbegin, PseudoOp.start, hquery hnext, runMoves_nil]
    · simp [State.withSched, atLine, txSpaceTold, State.respond]

/-- What a `READ` of `n` held samples run alone leaves of the state before it. -/
def afterRead (n : Nat) (s : State) : State :=
  { s with
    rxring := { s.rxring with tail := (s.rxring.tail + n) % (s.cfg.nRx + 1) }
    hostop := none
    responses := s.responses ++ [(s.caller, Response.okBytes (s.rxContents.take n))] }

/-- The line of `readFrame` that reads a frame the ring holds, up to the end of the sequence. -/
theorem runMoves_call_read {s : State} (hset : s.Settled) (hs : s.Issuable) (hok : s.rxring.Ok s.cfg.nRx)
    (hheld : s.cfg.frameSize ≤ s.rxring.itemCount s.cfg.nRx) (hfits : s.cfg.frameSize < 4294967296) :
    (atLine .frameRead none s).runMoves (.call :: (List.replicate s.cfg.frameSize .host ++ [.call])) =
      (atLine (.done (.frame (s.rxContents.take s.cfg.frameSize))) none
        (afterRead s.cfg.frameSize s)).runMoves [] := by
  have hwanted : (BitVec.ofNat 32 s.cfg.frameSize).toNat = s.cfg.frameSize := by
    rw [BitVec.toNat_ofNat]
    exact Nat.mod_eq_of_lt hfits
  have hline : (atLine .frameRead (some s.responses.length) s).Settled := atLine_settled hset _ _
  have hissue := runMoves_call_issue (s := s) (pos := .frameRead)
    (rest := List.replicate s.cfg.frameSize .host ++ [.call]) hs.1 rfl rfl (readIter_settled hline s.caller _ [])
    ((exec_read (s := (atLine .frameRead (some s.responses.length) s).withSched _) _ hs).trans
      (congrArg _ (readIter_withSched _ _ _ _ _)))
  have hrun := runMoves_readIter s.cfg.frameSize hline hs.1 hok s.caller [] (w := s.cfg.frameSize)
    (Nat.min_eq_left hheld).symm [.call]
  have hlast := runMoves_call_response (s := afterRead s.cfg.frameSize s)
    (Settled_of_same hset ⟨rfl, rfl, rfl, rfl, rfl, rfl, rfl, rfl⟩) hs.1 .frameRead rfl []
  have hlen : (s.rxContents.take s.cfg.frameSize).length = s.cfg.frameSize := by
    rw [List.length_take, length_rxContents]
    omega
  have hframe : CallPos.afterResponse s.cfg .frameRead (.okBytes (s.rxContents.take s.cfg.frameSize)) =
      .done (.frame (s.rxContents.take s.cfg.frameSize)) :=
    if_neg (by rw [Response.okBytes, hlen, countValue, hwanted]; exact Nat.lt_irrefl _)
  rw [hwanted] at hissue
  exact hissue.trans (hrun.trans (hlast.trans (congrArg (fun pos => State.runMoves (atLine pos none _) []) hframe)))

theorem itemCount_advance {n m : Nat} {r : Ring} (hh : r.head ≤ n) (ht : r.tail ≤ n) (hm : m ≤ r.itemCount n) :
    Ring.itemCount n ⟨r.slots, r.head, (r.tail + m) % (n + 1)⟩ = r.itemCount n - m := by
  have hle := itemCount_le n r
  have hmod : (r.tail + m) % (n + 1) ≤ n := Nat.le_of_lt_succ (Nat.mod_lt _ (Nat.succ_pos n))
  rw [itemCount_eq (r := ⟨r.slots, r.head, (r.tail + m) % (n + 1)⟩) hh hmod]
  rw [itemCount_eq hh ht] at hm hle ⊢
  simp only
  rw [mod_once (by omega)]
  repeat' split
  all_goals split at hm <;> omega

/-- Settles O60: the query decides; a frame that is held is read whole. -/
theorem readFrameNeedsMoreThanAFrame : Obligations.ReadFrameNeedsMoreThanAFrame := by
  intro s hs hset hwf hsched hcall hok
  obtain ⟨_, _, _, _, _, _, hcap, _⟩ := id hwf
  have hle := itemCount_le s.cfg.nRx s.rxring
  have hvalue : (countValue (s.rxring.itemCount s.cfg.nRx)).toNat = s.rxring.itemCount s.cfg.nRx :=
    countValue_toNat hle hcap
  have hquery {next : CallPos} := runMoves_call_rxCount hset hs (pos := .frameCount) (next := next) rfl
  have hbegin := runMoves_beginCall hset hs.1 hcall .readFrame
  refine ⟨fun hheld => ?_, fun hnone => ?_, fun r hshort => if_pos hshort⟩
  · have hnext : CallPos.afterResponse s.cfg .frameCount
        (.okValue (countValue (s.rxring.itemCount s.cfg.nRx))) = .frameRead :=
      if_pos (by rw [Response.okValue, hvalue]; exact hheld)
    have hset' : (rxCountTold s).Settled := Settled_of_same hset ⟨rfl, rfl, rfl, rfl, rfl, rfl, rfl, rfl⟩
    have hread := runMoves_call_read (s := rxCountTold s) hset' hs hok (Nat.le_of_lt hheld)
      (show s.cfg.frameSize < 4294967296 by omega)
    have hadvance := itemCount_advance hok.1 hok.2.1 (Nat.le_of_lt hheld)
    refine ⟨(atLine (.done (.frame (s.rxContents.take s.cfg.frameSize))) none
      (afterRead s.cfg.frameSize (rxCountTold s))).withSched [], ?_, ?_, ?_, ?_⟩
    · simp only [List.cons_append, List.nil_append]
      rw [hbegin, PseudoOp.start, hquery hnext]
      exact hread
    · simp only [State.withSched, atLine, afterRead, rxCountTold, State.respond]
    · simp only [State.withSched, atLine, afterRead, rxCountTold, State.respond]
      exact hadvance
    · simp only [State.withSched, atLine, afterRead, rxCountTold, State.respond]
  · have hnext : CallPos.afterResponse s.cfg .frameCount
        (.okValue (countValue (s.rxring.itemCount s.cfg.nRx))) = .done .noFrame :=
      if_neg (by rw [Response.okValue, hvalue]; exact Nat.not_lt.mpr hnone)
    refine ⟨(atLine (.done .noFrame) none (rxCountTold s)).withSched [], ?_, ?_⟩
    · rw [hbegin, PseudoOp.start, hquery hnext, runMoves_nil]
    · simp [State.withSched, atLine, rxCountTold, State.respond]

end Sys2Proof.Laws
end

section
/-! PROOF. What the agents of a ready block leave alone: parameters and opaque registers, the record of the line, and
the counts each side has been told (10_state.md R10, R14, R29, 40_register_interface.md R88, 41_ring_buffer.md R108). -/

namespace Sys2Proof.Laws

open Sys2Proof
open Sys2Proof.Machine

/-! ### Registers that no agent writes -/

/-- The opaque registers and the interrupt enables hold the same values. -/
def SameRegisters (s t : State) : Prop :=
  t.mode = s.mode ∧ t.rxc = s.rxc ∧ t.txc = s.txc ∧ t.dreq = s.dreq ∧ t.gray = s.gray ∧
    t.intenTxw = s.intenTxw ∧ t.intenRxr = s.intenRxr

theorem Action.sameRegisters {s t : State} (ha : Action s t) : SameRegisters s t := by
  have same {t : State} (h1 : t.mode = s.mode) (h2 : t.rxc = s.rxc) (h3 : t.txc = s.txc) (h4 : t.dreq = s.dreq)
      (h5 : t.gray = s.gray) (h6 : t.intenTxw = s.intenTxw) (h7 : t.intenRxr = s.intenRxr) : SameRegisters s t :=
    ⟨h1, h2, h3, h4, h5, h6, h7⟩
  cases ha with
  | request p r call _ h => rw [issue_frame h]; exact same rfl rfl rfl rfl rfl rfl rfl
  | host _ h => rw [hostStep_frame h]; exact same rfl rfl rfl rfl rfl rfl rfl
  | engine _ => rw [engineStep_frame]; exact same rfl rfl rfl rfl rfl rfl rfl
  | txTick => rw [txTick_frame]; exact same rfl rfl rfl rfl rfl rfl rfl
  | rxTick => rw [rxTick_frame]; exact same rfl rfl rfl rfl rfl rfl rfl
  | clearTx => rw [clearTxFifo_frame]; exact same rfl rfl rfl rfl rfl rfl rfl
  | clearRx => rw [clearRxFifo_frame]; exact same rfl rfl rfl rfl rfl rfl rfl
  | outside call clock _ => exact same rfl rfl rfl rfl rfl rfl rfl

/-- Settles O35: no move writes the parameters, no action of a ready block the registers named. -/
theorem parametersAndOpaqueRegistersKeepTheirValue : Obligations.ParametersAndOpaqueRegistersKeepTheirValue := by
  intro s t h
  refine ⟨?_, fun hs ht => ?_⟩
  · obtain ⟨t, _, hm, rfl⟩ := step_next h
    have hcfg : t.cfg = s.afterChoice.cfg := move_cfg hm
    exact hcfg
  · obtain ⟨t, ha, rfl⟩ := step_action hs ht h
    exact ha.sameRegisters

/-! ### The engine's step: a loop iteration, or control alone -/

theorem countUnderflow_frame (s : State) :
    s.countUnderflow =
      { s with
        csTxon := s.countUnderflow.csTxon
        txfifo := s.countUnderflow.txfifo
        txUnderflow := s.countUnderflow.txUnderflow } := by
  simp only [State.countUnderflow]
  split <;> rfl

theorem countOverflow_frame (s : State) :
    s.countOverflow =
      { s with
        csRxon := s.countOverflow.csRxon
        rxfifo := s.countOverflow.rxfifo
        rxOverflow := s.countOverflow.rxOverflow
        draws := s.countOverflow.draws } := by
  simp only [State.countOverflow]
  split <;> rfl

/-- Outside the two loops the engine writes control state and flags only. -/
theorem engineStep_cases (s : State) :
    (s.eng.phase = .s2loop ∧ s.engineStep = s.s2loop) ∨
    (s.eng.phase = .s3loop ∧ s.engineStep = s.s3loop) ∨
    s.engineStep =
      { s with
        intstcTxw := s.engineStep.intstcTxw
        intstcRxr := s.engineStep.intstcRxr
        svcPending := s.engineStep.svcPending
        inService := s.engineStep.inService
        eng := s.engineStep.eng } := by
  cases hph : s.eng.phase with
  | idle =>
    rw [engineStep_idle hph]
    exact .inr (.inr (by split <;> rfl))
  | s2test => rw [engineStep_s2test hph]; exact .inr (.inr rfl)
  | s2loop => exact .inl ⟨rfl, engineStep_s2loop hph⟩
  | s3test => rw [engineStep_s3test hph]; exact .inr (.inr rfl)
  | s3loop => exact .inr (.inl ⟨rfl, engineStep_s3loop hph⟩)
  | s4 => rw [engineStep_s4 hph, acknowledge_eq]; exact .inr (.inr rfl)
  | s5 => rw [engineStep_s5 hph]; exact .inr (.inr rfl)

/-- Accounting takes words from `rxfifo` and adds none. -/
theorem countOverflow_rxfifo_le (s : State) : s.countOverflow.rxfifo.length ≤ s.rxfifo.length := by
  obtain ⟨_, e⟩ | ⟨_, e⟩ := countOverflow_cases s <;> rw [e]
  rw [List.length_drop]
  exact Nat.sub_le _ _

/-- The engine only takes words from `rxfifo`. -/
theorem engineStep_rxfifo_le (s : State) : s.engineStep.rxfifo.length ≤ s.rxfifo.length := by
  obtain ⟨_, e⟩ | ⟨_, e⟩ | e := engineStep_cases s <;> rw [e]
  · obtain ⟨_, e⟩ | ⟨_, _, _, e⟩ | ⟨_, _, _, e⟩ := s2loop_cases s <;> rw [e]
    · exact Nat.le_refl _
    · rw [countUnderflow_frame]
      exact Nat.le_refl _
  · obtain ⟨_, e⟩ | ⟨w, rest, hfifo, _, ⟨_, e⟩ | ⟨_, e⟩⟩ := s3loop_cases s <;> rw [e]
    · exact Nat.le_refl _
    · rw [hfifo]
      exact Nat.le_succ _
    · rw [hfifo]
      exact Nat.le_succ_of_le (countOverflow_rxfifo_le _)

/-- The engine only adds words to `txfifo`. -/
theorem engineStep_txfifo_ge (s : State) : s.txfifo.length ≤ s.engineStep.txfifo.length := by
  obtain ⟨_, e⟩ | ⟨_, e⟩ | e := engineStep_cases s <;> rw [e]
  · obtain ⟨_, e⟩ | ⟨_, _, _, e⟩ | ⟨_, hroom, _, e⟩ := s2loop_cases s <;> rw [e]
    · exact Nat.le_refl _
    · simp
    · show s.txfifo.length ≤ s.countUnderflow.txfifo.length
      obtain ⟨_, e⟩ | ⟨_, e⟩ := countUnderflow_cases s (Nat.le_of_lt hroom) <;> rw [e]
      simp only [List.length_take, List.length_append]
      omega
  · obtain ⟨_, e⟩ | ⟨w, rest, _, _, ⟨_, e⟩ | ⟨_, e⟩⟩ := s3loop_cases s <;> rw [e]
    · exact Nat.le_refl _
    · rw [countOverflow_frame]
      exact Nat.le_refl _

/-! ### The line -/

/-- An action puts at most one sample on the line, the oldest word's, and only with the block enabled. -/
theorem Action.lineOut {s t : State} (ha : Action s t) :
    ∃ added : List Byte, t.lineOut = s.lineOut ++ added ∧ added.length ≤ 1 ∧
      (added ≠ [] → s.csEn = true ∧ added = (s.txfifo.take 1).map fun w => w.setWidth 8) := by
  have none {t : State} (h : t.lineOut = s.lineOut) : ∃ added : List Byte, t.lineOut = s.lineOut ++ added ∧
      added.length ≤ 1 ∧ (added ≠ [] → s.csEn = true ∧ added = (s.txfifo.take 1).map fun w => w.setWidth 8) :=
    ⟨[], h.trans (List.append_nil _).symm, Nat.zero_le _, fun hne => absurd rfl hne⟩
  cases ha with
  | request p r call _ h => exact none (by rw [issue_frame h]; rfl)
  | host _ h => exact none (by rw [hostStep_frame h]; rfl)
  | engine _ => exact none (by rw [engineStep_frame]; rfl)
  | rxTick => exact none (by rw [rxTick_frame]; rfl)
  | clearTx => exact none (by rw [clearTxFifo_frame]; rfl)
  | clearRx => exact none (by rw [clearRxFifo_frame]; rfl)
  | outside call clock _ => exact none rfl
  | txTick =>
    unfold State.txTick
    split
    · next he =>
      simp only [State.txTickEnabled, Bool.and_eq_true] at he
      obtain ⟨⟨⟨_, hen⟩, _⟩, _⟩ := he
      refine ⟨_, rfl, ?_, fun _ => ⟨hen, ?_⟩⟩ <;> cases hf : s.txfifo <;> simp [hf]
      rfl
    · exact none rfl

/-- Settles O40: the record of one action. -/
theorem lineRecordOnlyGrows : Obligations.LineRecordOnlyGrows := by
  intro s t hs ht h
  obtain ⟨t, ha, rfl⟩ := step_action hs ht h
  obtain ⟨added, hline, hone, hold⟩ := ha.lineOut
  exact ⟨added, hline, hone, fun hne => (hold hne).2⟩

/-- With the block disabled no action adds a word to `rxfifo`. -/
theorem Action.rxfifo_le {s t : State} (ha : Action s t) (hen : s.csEn = false) :
    t.rxfifo.length ≤ s.rxfifo.length := by
  cases ha with
  | request p r call _ h => rw [issue_frame h]; exact Nat.le_refl _
  | host _ h => rw [hostStep_frame h]; exact Nat.le_refl _
  | engine _ => exact engineStep_rxfifo_le s.afterChoice
  | txTick => rw [txTick_frame]; exact Nat.le_refl _
  | rxTick =>
    obtain ⟨_, e⟩ | ⟨b, _, ⟨hacc, _⟩ | ⟨_, e⟩⟩ := rxTick_cases s.afterChoice
    · rw [e]; exact Nat.le_refl _
    · simp [State.rxAccepts, hen] at hacc
    · rw [e]; exact Nat.le_refl _
  | clearTx => rw [clearTxFifo_frame]; exact Nat.le_refl _
  | clearRx =>
    unfold State.clearRxFifo
    split
    · exact Nat.zero_le _
    · exact Nat.le_refl _
  | outside call clock _ => exact Nat.le_refl _

/-- Settles O39: a sample on the line and a word stored both need `CS.EN`. -/
theorem overallEnableStopsTheLine : Obligations.OverallEnableStopsTheLine := by
  intro s t hs ht hen h
  obtain ⟨t, ha, rfl⟩ := step_action hs ht h
  obtain ⟨added, hline, _, hold⟩ := ha.lineOut
  have hnone : added = [] := by
    by_contra hne
    exact absurd (hen.symm.trans (hold hne).1) nofun
  exact ⟨hline.trans (by rw [hnone, List.append_nil]), ha.rxfifo_le hen⟩

/-! ### Counts once queried -/

/-- The counts a host process may rely on have not fallen. -/
def CountsKept (s t : State) : Prop :=
  s.txring.remainingSpace s.cfg.nTx ≤ t.txring.remainingSpace t.cfg.nTx ∧
    s.rxring.itemCount s.cfg.nRx ≤ t.rxring.itemCount t.cfg.nRx

theorem CountsKept.of_same {s t : State} (hc : t.cfg = s.cfg) (htx : t.txring = s.txring)
    (hrx : t.rxring = s.rxring) : CountsKept s t := by
  rw [CountsKept, hc, htx, hrx]
  exact ⟨Nat.le_refl _, Nat.le_refl _⟩

/-- The engine is the consumer of the transmit ring and the producer of the receive ring. -/
theorem engineStep_countsKept {s : State} (htx : s.txring.Ok s.cfg.nTx) (hrx : s.rxring.Ok s.cfg.nRx) :
    CountsKept s s.engineStep := by
  obtain ⟨_, e⟩ | ⟨_, e⟩ | e := engineStep_cases s <;> rw [e]
  · obtain ⟨_, e⟩ | ⟨_, _, hne, e⟩ | ⟨_, _, _, e⟩ := s2loop_cases s <;> rw [e]
    · exact .of_same rfl rfl rfl
    · refine ⟨Nat.sub_le_sub_left ?_ _, Nat.le_refl _⟩
      exact Nat.le_of_succ_le (Nat.le_of_eq (read_itemCount htx.1 htx.2.1 hne).symm)
    · rw [countUnderflow_frame]
      exact .of_same rfl rfl rfl
  · obtain ⟨_, e⟩ | ⟨w, rest, _, _, ⟨hroom, e⟩ | ⟨_, e⟩⟩ := s3loop_cases s <;> rw [e]
    · exact .of_same rfl rfl rfl
    · refine ⟨Nat.le_refl _, Nat.le_of_succ_le (Nat.le_of_eq ?_)⟩
      exact (write_itemCount _ hrx.1 hrx.2.1 hroom).symm
    · rw [countOverflow_frame]
      exact .of_same rfl rfl rfl
  · exact .of_same rfl rfl rfl

/-- Settles O56: of the agents left the engine alone touches the rings. -/
theorem queriedCountsAreLowerBounds : Obligations.QueriedCountsAreLowerBounds := by
  intro s t hinv hs ht h hreq hhost
  obtain ⟨t, ha, rfl⟩ := step_action hs ht h
  obtain ⟨htx, _, hrx, _⟩ := hinv.storage
  show CountsKept s t
  cases ha with
  | request p r call hreq' _ => exact absurd (hreq.symm.trans hreq') nofun
  | host hm _ => exact absurd hm hhost
  | engine _ => exact engineStep_countsKept (s := s.afterChoice) htx hrx
  | txTick => rw [txTick_frame]; exact .of_same rfl rfl rfl
  | rxTick => rw [rxTick_frame]; exact .of_same rfl rfl rfl
  | clearTx => rw [clearTxFifo_frame]; exact .of_same rfl rfl rfl
  | clearRx => rw [clearRxFifo_frame]; exact .of_same rfl rfl rfl
  | outside call clock _ => exact .of_same rfl rfl rfl

end Sys2Proof.Laws
end

section
/-! PROOF. Who writes what (R90, R124, R134, R198): the pending clears, the session with its error counters, and what
a response other than `Ok` leaves. -/

namespace Sys2Proof.Laws

open Sys2Proof
open Sys2Proof.Machine

/-! ### Responses (R198) -/

/-- At most one response more, and that one `Ok`. -/
def RespondsOk (s t : State) : Prop :=
  t.responses = s.responses ∨ ∃ p r, t.responses = s.responses ++ [(p, r)] ∧ r.status = Status.ok

theorem RespondsOk.respond (s : State) (p : ProcId) (value : Word) (payload : List Byte) {t : State}
    (h : t.responses = s.responses ++ [(p, ⟨.ok, value, payload⟩)]) : RespondsOk s t := .inr ⟨p, _, h, rfl⟩

/-- The one response more is the one seen. -/
theorem RespondsOk.status_ok {s t : State} {p : ProcId} {r : Response} (h : RespondsOk s t)
    (hr : t.responses = s.responses ++ [(p, r)]) : r.status = .ok := by
  obtain h | ⟨p', r', h, hok⟩ := h
  · exact absurd (h.symm.trans hr) (by simp)
  · obtain ⟨_, rfl⟩ : p' = p ∧ r' = r := by simpa using h.symm.trans hr
    exact hok

theorem readIter_respondsOk (s : State) (p : ProcId) (w : Nat) (got : List Byte) :
    RespondsOk s (s.readIter p w got) := by
  obtain ⟨_, e⟩ | ⟨_, _, e⟩ := readIter_cases s p w got <;> rw [e]
  · exact .respond s p _ got rfl
  · exact .inl rfl

theorem writeIter_respondsOk (s : State) (p : ProcId) (payload : List Byte) (k : Nat) :
    RespondsOk s (s.writeIter p payload k) := by
  obtain ⟨_, e⟩ | ⟨_, _, ⟨_, e⟩ | ⟨_, e⟩⟩ := writeIter_cases s p payload k <;> rw [e]
  · exact .respond s p _ [] rfl
  · exact .inl rfl
  · exact .inl rfl

/-- A step of an operation in flight responds with nothing but `Ok`. -/
theorem hostStep_respondsOk {s t : State} (h : s.hostStep = .next t) : RespondsOk s t := by
  cases ho : s.hostop with
  | some op =>
    obtain ⟨p, g⟩ := op
    cases g with
    | read w got =>
      cases (hostStep_read ho).symm.trans h
      exact readIter_respondsOk s p w got
    | write payload k =>
      cases (hostStep_write ho).symm.trans h
      exact writeIter_respondsOk s p payload k
    | clrTx next saved =>
      obtain ⟨_, _, rfl⟩ | ⟨_, _, rfl⟩ | ⟨_, _, rfl⟩ | ⟨_, rfl⟩ := clearTxStep_cases ((hostStep_clrTx ho).symm.trans h)
      · exact .inl rfl
      · exact .inl rfl
      · exact .inl rfl
      · exact .respond s p _ [] rfl
    | clrRx next saved =>
      obtain ⟨_, _, rfl⟩ | ⟨_, _, rfl⟩ | ⟨_, _, rfl⟩ | ⟨_, rfl⟩ := clearRxStep_cases ((hostStep_clrRx ho).symm.trans h)
      · exact .inl rfl
      · exact .inl rfl
      · exact .inl rfl
      · exact .respond s p _ [] rfl
  | none =>
    cases hh : s.held with
    | none =>
      simp only [State.hostStep, ho, hh, Host.Outcome.next.injEq] at h
      exact h ▸ .inl rfl
    | some p =>
      cases (hostStep_held ho hh).symm.trans h
      unfold State.retryClose
      split
      · exact .inl rfl
      · exact .respond s p _ [] rfl

/-- An operation responds `Ok`, or its response is all it does. -/
theorem exec_responds {i : Instr} {s t : State} (h : exec i s = .next t) :
    RespondsOk s t ∨ ∃ p status, t = s.respond p (.error status) := by
  cases i
  case openSession =>
    obtain ⟨rfl, _⟩ := whenReady_next h
    split
    · exact .inr ⟨_, _, rfl⟩
    · exact .inl (.respond s s.caller _ [] rfl)
  all_goals obtain ⟨rfl, _⟩ := whenHolder_next h
  case closeSession =>
    split
    · exact .inl (.inl rfl)
    · exact .inl (.respond s s.caller _ [] rfl)
  case read => exact .inl (readIter_respondsOk s _ _ _)
  case write =>
    split
    · exact .inr ⟨_, _, rfl⟩
    · exact .inl (.inl rfl)
  case clrTxFifo => exact .inl (.inl rfl)
  case clrRxFifo => exact .inl (.inl rfl)
  case getTxSpace => exact .inl (.respond s s.caller _ [] rfl)
  case getRxCount => exact .inl (.respond s s.caller _ [] rfl)
  case clrTxRing => exact .inl (.respond s s.caller _ [] rfl)
  case clrRxRing => exact .inl (.respond s s.caller _ [] rfl)
  all_goals
    unfold State.setEnable
    split
    · exact .inr ⟨_, _, rfl⟩
    · exact .inl (.respond s s.caller _ [] rfl)

/-- Settles O55: a response that is not `Ok` was given by an operation that did nothing else. -/
theorem failedResponseChangesNothing : Obligations.FailedResponseChangesNothing := by
  refine ⟨fun i s t p r h hr hne => ?_, fun s t p r h hr => (hostStep_respondsOk h).status_ok hr⟩
  obtain hok | ⟨p', status, rfl⟩ := exec_responds h
  · exact absurd (hok.status_ok hr) hne
  · obtain ⟨rfl, rfl⟩ : p' = p ∧ Response.error status = r := by simpa [State.respond] using hr
    exact ⟨rfl, rfl, rfl⟩

/-! ### The session and its counters (R124, R134) -/

/-- Session and error counters as they were. -/
def SameSession (s t : State) : Prop :=
  t.inUse = s.inUse ∧ t.txUnderflow = s.txUnderflow ∧ t.rxOverflow = s.rxOverflow

/-- The session has been opened or closed, with its counters at 0. -/
def SessionSet (isOpen : Bool) (t : State) : Prop := t.inUse = isOpen ∧ t.txUnderflow = 0 ∧ t.rxOverflow = 0

/-- Of the operations `OPEN` alone opens the session, `CLOSE` alone closes it, and no other writes its counters. -/
theorem exec_session {i : Instr} {s t : State} (h : exec i s = .next t) :
    SameSession s t ∨ (i = .openSession ∧ SessionSet true t) ∨ (i = .closeSession ∧ SessionSet false t) := by
  have same {t : State} (h1 : t.inUse = s.inUse) (h2 : t.txUnderflow = s.txUnderflow)
      (h3 : t.rxOverflow = s.rxOverflow) : SameSession s t := ⟨h1, h2, h3⟩
  cases i
  case openSession =>
    obtain ⟨rfl, _⟩ := whenReady_next h
    split
    · exact .inl (same rfl rfl rfl)
    · exact .inr (.inl ⟨rfl, rfl, rfl, rfl⟩)
  all_goals obtain ⟨rfl, _⟩ := whenHolder_next h
  case closeSession =>
    split
    · exact .inl (same rfl rfl rfl)
    · exact .inr (.inr ⟨rfl, rfl, rfl, rfl⟩)
  case read => rw [readIter_frame]; exact .inl (same rfl rfl rfl)
  case write => split <;> exact .inl (same rfl rfl rfl)
  case setEn => rw [setEnable_frame _ _ _ (.inl rfl)]; exact .inl (same rfl rfl rfl)
  case setTxEn => rw [setEnable_frame _ _ _ (.inr (.inl rfl))]; exact .inl (same rfl rfl rfl)
  case setRxEn => rw [setEnable_frame _ _ _ (.inr (.inr rfl))]; exact .inl (same rfl rfl rfl)
  all_goals exact .inl (same rfl rfl rfl)

theorem issue_session {p : ProcId} {r : Request} {s t : State} (h : s.issue p r = .next t) :
    SameSession s t ∨ (decode r = .ok .openSession ∧ SessionSet true t) ∨
      (decode r = .ok .closeSession ∧ SessionSet false t) := by
  cases hd : decode r with
  | ok i =>
    obtain hsame | ⟨rfl, hset⟩ | ⟨rfl, hset⟩ := exec_session (issue_of_decode s hd ▸ h)
    · exact .inl hsame
    · exact .inr (.inl ⟨rfl, hset⟩)
    · exact .inr (.inr ⟨rfl, hset⟩)
  | error e =>
    rw [issue_of_illegal s hd] at h
    obtain ⟨rfl, _⟩ := whenHolder_next h
    exact .inl ⟨rfl, rfl, rfl⟩

/-- Of the host's own steps the completion of a held `CLOSE` alone writes them. -/
theorem hostStep_session {s t : State} (h : s.hostStep = .next t) :
    SameSession s t ∨ (s.held ≠ none ∧ s.inService = false ∧ SessionSet false t) := by
  have same {t : State} (h1 : t.inUse = s.inUse) (h2 : t.txUnderflow = s.txUnderflow)
      (h3 : t.rxOverflow = s.rxOverflow) : SameSession s t := ⟨h1, h2, h3⟩
  cases ho : s.hostop with
  | some op =>
    obtain ⟨p, g⟩ := op
    cases g with
    | read w got =>
      cases (hostStep_read ho).symm.trans h
      rw [readIter_frame]
      exact .inl (same rfl rfl rfl)
    | write payload k =>
      cases (hostStep_write ho).symm.trans h
      rw [writeIter_frame]
      exact .inl (same rfl rfl rfl)
    | clrTx next saved =>
      rw [clearTxStep_frame ((hostStep_clrTx ho).symm.trans h)]
      exact .inl (same rfl rfl rfl)
    | clrRx next saved =>
      rw [clearRxStep_frame ((hostStep_clrRx ho).symm.trans h)]
      exact .inl (same rfl rfl rfl)
  | none =>
    cases hh : s.held with
    | none =>
      simp only [State.hostStep, ho, hh, Host.Outcome.next.injEq] at h
      exact .inl (h ▸ same rfl rfl rfl)
    | some p =>
      cases (hostStep_held ho hh).symm.trans h
      unfold State.retryClose
      split
      · exact .inl (same rfl rfl rfl)
      · next hserv => exact .inr ⟨nofun, by simpa using hserv, rfl, rfl, rfl⟩

/-- What the engine does to the error counters: one loop each, one more or a trip (R115, R120). -/
theorem engineStep_session (s : State) :
    SameSession s s.engineStep ∨
    (s.eng.phase = .s2loop ∧ s.engineStep.inUse = s.inUse ∧ s.engineStep.rxOverflow = s.rxOverflow ∧
      (s.engineStep.txUnderflow = min (s.txUnderflow + 1) s.cfg.counterMax ∨
        (s.engineStep.txUnderflow = 0 ∧ s.engineStep.csTxon = false))) ∨
    (s.eng.phase = .s3loop ∧ s.engineStep.inUse = s.inUse ∧ s.engineStep.txUnderflow = s.txUnderflow ∧
      (s.engineStep.rxOverflow = min (s.rxOverflow + 1) s.cfg.counterMax ∨
        (s.engineStep.rxOverflow = 0 ∧ s.engineStep.csRxon = false))) := by
  obtain ⟨hph, e⟩ | ⟨hph, e⟩ | e := engineStep_cases s <;> rw [e]
  · obtain ⟨_, e⟩ | ⟨_, _, _, e⟩ | ⟨_, hroom, _, e⟩ := s2loop_cases s <;> rw [e]
    · exact .inl ⟨rfl, rfl, rfl⟩
    · exact .inl ⟨rfl, rfl, rfl⟩
    · obtain ⟨_, e⟩ | ⟨_, e⟩ := countUnderflow_cases s (Nat.le_of_lt hroom) <;> rw [e]
      · exact .inr (.inl ⟨hph, rfl, rfl, .inl rfl⟩)
      · exact .inr (.inl ⟨hph, rfl, rfl, .inr ⟨rfl, rfl⟩⟩)
  · obtain ⟨_, e⟩ | ⟨w, rest, _, _, ⟨_, e⟩ | ⟨_, e⟩⟩ := s3loop_cases s <;> rw [e]
    · exact .inl ⟨rfl, rfl, rfl⟩
    · exact .inl ⟨rfl, rfl, rfl⟩
    · obtain ⟨_, e⟩ | ⟨_, e⟩ := countOverflow_cases { s with rxfifo := rest } <;> rw [e]
      · exact .inr (.inr ⟨hph, rfl, rfl, .inl rfl⟩)
      · exact .inr (.inr ⟨hph, rfl, rfl, .inr ⟨rfl, rfl⟩⟩)
  · exact .inl ⟨rfl, rfl, rfl⟩

/-- What an action of a ready block can do to session and counters. -/
theorem Action.session {s t : State} (ha : Action s t) :
    SameSession s t ∨ (s.Issues .openSession ∧ SessionSet true t) ∨
    ((s.Issues .closeSession ∨ (s.nextMove = .host ∧ s.held ≠ none ∧ s.inService = false)) ∧ SessionSet false t) ∨
    (s.nextMove = .engine ∧ t = s.afterChoice.engineStep) := by
  have same {t : State} (h1 : t.inUse = s.inUse) (h2 : t.txUnderflow = s.txUnderflow)
      (h3 : t.rxOverflow = s.rxOverflow) : SameSession s t := ⟨h1, h2, h3⟩
  cases ha with
  | request p r call hreq h =>
    obtain hsame | ⟨hd, hset⟩ | ⟨hd, hset⟩ := issue_session h
    · exact .inl hsame
    · exact .inr (.inl ⟨⟨p, r, hreq, hd⟩, hset⟩)
    · exact .inr (.inr (.inl ⟨.inl ⟨p, r, hreq, hd⟩, hset⟩))
  | host hm h =>
    obtain hsame | ⟨hheld, hserv, hset⟩ := hostStep_session h
    · exact .inl hsame
    · exact .inr (.inr (.inl ⟨.inr ⟨hm, hheld, hserv⟩, hset⟩))
  | engine hm => exact .inr (.inr (.inr ⟨hm, rfl⟩))
  | txTick => rw [txTick_frame]; exact .inl (same rfl rfl rfl)
  | rxTick => rw [rxTick_frame]; exact .inl (same rfl rfl rfl)
  | clearTx => rw [clearTxFifo_frame]; exact .inl (same rfl rfl rfl)
  | clearRx => rw [clearRxFifo_frame]; exact .inl (same rfl rfl rfl)
  | outside call clock _ => exact .inl (same rfl rfl rfl)

/-- Settles O53: an action that changes `in_use` is one of those named. -/
theorem sessionOpensAndClosesByRequest : Obligations.SessionOpensAndClosesByRequest := by
  intro s t _ hs ht h
  obtain ⟨t, ha, rfl⟩ := step_action hs ht h
  have same (hk : t.inUse = s.inUse) : (s.inUse = false → t.inUse = true → s.Issues .openSession) ∧
      (s.inUse = true → t.inUse = false →
        s.Issues .closeSession ∨ (s.nextMove = .host ∧ s.held ≠ none ∧ s.inService = false)) := by
    rw [hk]
    exact ⟨fun h0 h1 => absurd (h0.symm.trans h1) nofun, fun h1 h0 => absurd (h1.symm.trans h0) nofun⟩
  obtain ⟨hk, _⟩ | ⟨hi, hset, _⟩ | ⟨hi, hset, _⟩ | ⟨_, rfl⟩ := ha.session
  · exact same hk
  · exact ⟨fun _ _ => hi, fun _ h0 => absurd (hset.symm.trans h0) nofun⟩
  · exact ⟨fun _ h1 => absurd (hset.symm.trans h1) nofun, fun _ _ => hi⟩
  · exact same (by rw [engineStep_frame]; rfl)

/-- Settles O54: an action that changes a counter is one of those named. -/
theorem counterWriters : Obligations.CounterWriters := by
  intro s t hs ht h
  obtain ⟨t, ha, rfl⟩ := step_action hs ht h
  obtain ⟨_, htx, hrx⟩ | ⟨hi, _, htx, hrx⟩ | ⟨hi, _, htx, hrx⟩ | ⟨hm, rfl⟩ := ha.session
  · exact ⟨fun hne => absurd htx hne, fun hne => absurd hrx hne⟩
  · exact ⟨fun _ => .inl ⟨htx, .inl hi⟩, fun _ => .inl ⟨hrx, .inl hi⟩⟩
  · have hby : s.Issues .openSession ∨ s.Issues .closeSession ∨ (s.nextMove = .host ∧ s.held ≠ none) :=
      .inr (hi.imp_right fun ⟨hm, hheld, _⟩ => ⟨hm, hheld⟩)
    exact ⟨fun _ => .inl ⟨htx, hby⟩, fun _ => .inl ⟨hrx, hby⟩⟩
  · obtain ⟨_, htx, hrx⟩ | ⟨hph, _, hrx, hcount⟩ | ⟨hph, _, htx, hcount⟩ := engineStep_session s.afterChoice
    · exact ⟨fun hne => absurd htx hne, fun hne => absurd hrx hne⟩
    · exact ⟨fun _ => .inr ⟨hm, hph, hcount⟩, fun hne => absurd hrx hne⟩
    · exact ⟨fun hne => absurd htx hne, fun _ => .inr ⟨hm, hph, hcount⟩⟩

/-! ### Clears of a disabled direction (R90, U4) -/

/-- A pending clear is raised or dropped with its direction disabled before and after. -/
def ClearsDisabled (s t : State) : Prop :=
  (t.txclrPending ≠ s.txclrPending → s.csTxon = false ∧ t.csTxon = false) ∧
    (t.rxclrPending ≠ s.rxclrPending → s.csRxon = false ∧ t.csRxon = false)

theorem ClearsDisabled.of_same {s t : State} (htx : t.txclrPending = s.txclrPending)
    (hrx : t.rxclrPending = s.rxclrPending) : ClearsDisabled s t :=
  ⟨fun hne => absurd htx hne, fun hne => absurd hrx hne⟩

/-- A pending transmit clear is at F3, where its direction is disabled. -/
theorem Unlatched.csTxon_of_pending {s : State} (h : Unlatched s) (hp : s.txclrPending = true) :
    s.csTxon = false := by
  obtain ⟨_, _, htx, _, htp, _⟩ := h.host
  have hwait := htp hp
  refine htx ?_
  unfold State.inTxClear at hwait ⊢
  split at hwait
  · rfl
  · cases hwait

theorem Unlatched.csRxon_of_pending {s : State} (h : Unlatched s) (hp : s.rxclrPending = true) :
    s.csRxon = false := by
  obtain ⟨_, _, _, hrx, _, hrp⟩ := h.host
  have hwait := hrp hp
  refine hrx ?_
  unfold State.inRxClear at hwait ⊢
  split at hwait
  · rfl
  · cases hwait

/-- A state with nothing pending and both directions disabled, as reset and teardown leave it. -/
theorem Unlatched.clearsDisabled_of_reset {s t : State} (h : Unlatched s) (htx : t.txclrPending = false)
    (hton : t.csTxon = false) (hrx : t.rxclrPending = false) (hron : t.csRxon = false) : ClearsDisabled s t := by
  rw [ClearsDisabled, htx, hrx]
  exact ⟨fun hne => ⟨h.csTxon_of_pending (Bool.eq_true_of_not_eq_false hne.symm), hton⟩,
    fun hne => ⟨h.csRxon_of_pending (Bool.eq_true_of_not_eq_false hne.symm), hron⟩⟩

/-- No operation requests a clear at its issue (F1 only disables). -/
theorem exec_pending {i : Instr} {s t : State} (h : exec i s = .next t) :
    t.txclrPending = s.txclrPending ∧ t.rxclrPending = s.rxclrPending := by
  cases i
  case openSession =>
    obtain ⟨rfl, _⟩ := whenReady_next h
    split <;> exact ⟨rfl, rfl⟩
  all_goals obtain ⟨rfl, _⟩ := whenHolder_next h
  case closeSession => split <;> exact ⟨rfl, rfl⟩
  case read => rw [readIter_frame]; exact ⟨rfl, rfl⟩
  case write => split <;> exact ⟨rfl, rfl⟩
  case setEn => rw [setEnable_frame _ _ _ (.inl rfl)]; exact ⟨rfl, rfl⟩
  case setTxEn => rw [setEnable_frame _ _ _ (.inr (.inl rfl))]; exact ⟨rfl, rfl⟩
  case setRxEn => rw [setEnable_frame _ _ _ (.inr (.inr rfl))]; exact ⟨rfl, rfl⟩
  all_goals exact ⟨rfl, rfl⟩

theorem issue_pending {p : ProcId} {r : Request} {s t : State} (h : s.issue p r = .next t) :
    t.txclrPending = s.txclrPending ∧ t.rxclrPending = s.rxclrPending := by
  cases hd : decode r with
  | ok i => exact exec_pending (s := { s with caller := p }) (issue_of_decode s hd ▸ h)
  | error e =>
    rw [issue_of_illegal s hd] at h
    obtain ⟨rfl, _⟩ := whenHolder_next h
    exact ⟨rfl, rfl⟩

/-- The host requests a clear at F2, which looks at the enable. -/
theorem hostStep_clearsDisabled {s t : State} (h : s.hostStep = .next t) : ClearsDisabled s t := by
  cases ho : s.hostop with
  | some op =>
    obtain ⟨p, g⟩ := op
    cases g with
    | read w got =>
      cases (hostStep_read ho).symm.trans h
      rw [readIter_frame]
      exact .of_same rfl rfl
    | write payload k =>
      cases (hostStep_write ho).symm.trans h
      rw [writeIter_frame]
      exact .of_same rfl rfl
    | clrTx next saved =>
      obtain ⟨_, hoff, rfl⟩ | ⟨_, _, rfl⟩ | ⟨_, _, rfl⟩ | ⟨_, rfl⟩ :=
        clearTxStep_cases ((hostStep_clrTx ho).symm.trans h)
      · exact ⟨fun _ => ⟨hoff, hoff⟩, fun hne => absurd rfl hne⟩
      · exact .of_same rfl rfl
      · exact .of_same rfl rfl
      · exact .of_same rfl rfl
    | clrRx next saved =>
      obtain ⟨_, hoff, rfl⟩ | ⟨_, _, rfl⟩ | ⟨_, _, rfl⟩ | ⟨_, rfl⟩ :=
        clearRxStep_cases ((hostStep_clrRx ho).symm.trans h)
      · exact ⟨fun hne => absurd rfl hne, fun _ => ⟨hoff, hoff⟩⟩
      · exact .of_same rfl rfl
      · exact .of_same rfl rfl
      · exact .of_same rfl rfl
  | none =>
    cases hh : s.held with
    | none =>
      simp only [State.hostStep, ho, hh, Host.Outcome.next.injEq] at h
      exact h ▸ .of_same rfl rfl
    | some p =>
      cases (hostStep_held ho hh).symm.trans h
      unfold State.retryClose
      split <;> exact .of_same rfl rfl

theorem Unlatched.clearsDisabled_action {s t : State} (h : Unlatched s) (ha : Action s t) : ClearsDisabled s t := by
  cases ha with
  | request p r call _ hi =>
    obtain ⟨htx, hrx⟩ := issue_pending hi
    exact .of_same htx hrx
  | host _ hi => exact hostStep_clearsDisabled (s := s.afterChoice) hi
  | engine _ => rw [engineStep_frame]; exact .of_same rfl rfl
  | txTick => rw [txTick_frame]; exact .of_same rfl rfl
  | rxTick => rw [rxTick_frame]; exact .of_same rfl rfl
  | clearTx =>
    unfold State.clearTxFifo
    split
    · next hc =>
      simp only [Bool.and_eq_true] at hc
      have hoff : s.csTxon = false := h.csTxon_of_pending hc.2
      exact ⟨fun _ => ⟨hoff, hoff⟩, fun hne => absurd rfl hne⟩
    · exact .of_same rfl rfl
  | clearRx =>
    unfold State.clearRxFifo
    split
    · next hc =>
      simp only [Bool.and_eq_true] at hc
      have hoff : s.csRxon = false := h.csRxon_of_pending hc.2
      exact ⟨fun hne => absurd rfl hne, fun _ => ⟨hoff, hoff⟩⟩
    · exact .of_same rfl rfl
  | outside call clock _ => exact .of_same rfl rfl

theorem Unlatched.clearsDisabled_move {s t : State} (h : Unlatched s) (hf : s.power ≠ .failed)
    (hm : s.afterChoice.move s.nextMove = .next t) : ClearsDisabled s t := by
  cases hs : s.power with
  | failed => exact absurd hs hf
  | ready =>
    by_cases ht : t.power = .ready
    · exact h.clearsDisabled_action (move_action hs ht hm)
    · obtain ⟨_, rfl⟩ := move_leaves_ready (s := s.afterChoice) hs ht hm
      exact h.clearsDisabled_of_reset rfl rfl rfl rfl
  | off =>
    obtain ⟨call, clock, rfl⟩ | rfl := move_off (s := s.afterChoice) hs hm
    · exact .of_same rfl rfl
    · unfold State.initBlock
      split <;> exact h.clearsDisabled_of_reset rfl rfl rfl rfl

/-! The refusal of R90 is given at F2 only. -/

theorem whenHolder_ne_clear (s t : State) :
    whenHolder s t ≠ .refused .clearOfEnabledDirection := by
  unfold whenHolder
  repeat' split
  all_goals nofun

theorem issue_ne_clear (s : State) (p : ProcId) (r : Request) : s.issue p r ≠ .refused .clearOfEnabledDirection := by
  cases hd : decode r with
  | error e =>
    rw [issue_of_illegal s hd]
    exact whenHolder_ne_clear _ _
  | ok i =>
    rw [issue_of_decode s hd]
    obtain ⟨_, t, e⟩ | ⟨_, t, e⟩ := exec_guard i { s with caller := p } <;> rw [e]
    · unfold whenReady
      split <;> nofun
    · exact whenHolder_ne_clear _ _

theorem callStep_ne_clear (s : State) : s.callStep ≠ .refused .clearOfEnabledDirection := by
  unfold State.callStep
  split
  · nofun
  · split
    · unfold State.callIssue
      split
      · exact issue_ne_clear _ _ _
      · nofun
    · split <;> nofun

theorem Unlatched.hostStep_ne_clear {s : State} (h : Unlatched s) :
    s.hostStep ≠ .refused .clearOfEnabledDirection := by
  cases ho : s.hostop with
  | some op =>
    obtain ⟨p, g⟩ := op
    cases g with
    | read w got => rw [hostStep_read ho]; nofun
    | write payload k => rw [hostStep_write ho]; nofun
    | clrTx next saved =>
      obtain ⟨_, _, hoff, _⟩ := h.of_clrTx ho
      rw [hostStep_clrTx ho]
      cases next <;> simp [State.clearTxStep, hoff]
    | clrRx next saved =>
      obtain ⟨_, _, hoff, _⟩ := h.of_clrRx ho
      rw [hostStep_clrRx ho]
      cases next <;> simp [State.clearRxStep, hoff]
  | none =>
    cases hh : s.held with
    | none => simp [State.hostStep, ho, hh]
    | some p => rw [hostStep_held ho hh]; nofun

theorem Unlatched.act_ne_clear {s : State} (h : Unlatched s) (m : Move) :
    s.act m ≠ .refused .clearOfEnabledDirection := by
  by_cases hf : s.power = .failed
  · simp [State.act, hf]
  rw [act_move m hf]
  cases m
  case issue p r => exact issue_ne_clear s p r
  case call => exact callStep_ne_clear s
  case host =>
    simp only [State.move]
    split
    · exact h.hostStep_ne_clear
    · nofun
  all_goals simp only [State.move]; nofun

theorem step_ne_refused {s : State} {r : Refusal} (h : s.afterChoice.act s.nextMove ≠ .refused r) :
    step s ≠ .refused r := by
  intro hs
  refine h ?_
  unfold step at hs
  cases ha : s.afterChoice.act s.nextMove with
  | next t => rw [ha] at hs; cases hs
  | fault f => rw [ha] at hs; cases hs
  | refused r' => rw [ha] at hs; exact hs

/-- Settles O52: F2 finds the direction disabled by the invariant, and a pending clear keeps it so. -/
theorem enabledDirectionIsNeverCleared : Obligations.EnabledDirectionIsNeverCleared := by
  intro s hinv
  have h := Unlatched.of_inv hinv
  refine ⟨step_ne_refused ((h.afterChoice s.call s.clockRunning).act_ne_clear s.nextMove), fun t hstep => ?_⟩
  obtain ⟨t, hf, hm, rfl⟩ := step_next hstep
  have hclears : ClearsDisabled s t := h.clearsDisabled_move hf hm
  exact hclears

end Sys2Proof.Laws
end

section
/-! PROOF. A FIFO clear without the clock (70_reset_and_hazards.md R211): at F3, with its clear pending and the clock
down, no move but `clockUp` changes what the operation waits for. -/

namespace Sys2Proof.Laws

open Sys2Proof
open Sys2Proof.Machine

/-- A FIFO clear waits at F3 for a clear unit without a clock. -/
def Stalled (s : State) : Prop :=
  s.clockRunning = false ∧
    ((∃ p saved, s.hostop = some ⟨p, .clrTx .f3 saved⟩ ∧ s.txclrPending = true) ∨
      (∃ p saved, s.hostop = some ⟨p, .clrRx .f3 saved⟩ ∧ s.rxclrPending = true))

/-- What happens meanwhile: the clear waits on, its FIFO is only filled by the engine (or emptied by it, on the receive
side), and whoever asks is told `Busy`. -/
structure StallKept (s t : State) : Prop where
  clock : t.clockRunning = s.clockRunning
  hostop : t.hostop = s.hostop
  txclr : t.txclrPending = s.txclrPending
  rxclr : t.rxclrPending = s.rxclrPending
  txfifo : s.txfifo.length ≤ t.txfifo.length
  rxfifo : t.rxfifo.length ≤ s.rxfifo.length
  responses : ∃ new, t.responses = s.responses ++ new ∧ ∀ e ∈ new, e.2.status = Status.busy

theorem StallKept.refl (s : State) : StallKept s s :=
  ⟨rfl, rfl, rfl, rfl, Nat.le_refl _, Nat.le_refl _, [], (List.append_nil _).symm, nofun⟩

theorem StallKept.trans {s t u : State} (h : StallKept s t) (h' : StallKept t u) : StallKept s u := by
  obtain ⟨new, hr, hnew⟩ := h.responses
  obtain ⟨new', hr', hnew'⟩ := h'.responses
  refine ⟨h'.clock.trans h.clock, h'.hostop.trans h.hostop, h'.txclr.trans h.txclr, h'.rxclr.trans h.rxclr,
    h.txfifo.trans h'.txfifo, h'.rxfifo.trans h.rxfifo, new ++ new', ?_, ?_⟩
  · rw [hr', hr, List.append_assoc]
  · exact fun e he => (List.mem_append.mp he).elim (hnew e) (hnew' e)

theorem StallKept.stalled {s t : State} (h : StallKept s t) (hs : Stalled s) : Stalled t := by
  rw [Stalled, h.clock, h.hostop, h.txclr, h.rxclr]
  exact hs

theorem Stalled.hostop_ne_none {s : State} (h : Stalled s) : s.hostop ≠ none := by
  obtain ⟨_, ⟨_, _, ho, _⟩ | ⟨_, _, ho, _⟩⟩ := h <;> simp [ho]

theorem Unlatched.inUse_of_hostop {s : State} (h : Unlatched s) (ho : s.hostop ≠ none) : s.inUse = true := by
  cases hu : s.inUse with
  | true => rfl
  | false => exact absurd (h.closed hu).1 ho

/-- Over an operation in flight every request that is accepted is an `OPEN`, answered `Busy` (R130, R135). -/
theorem issue_over_flight {s t : State} {p : ProcId} {r : Request} (ho : s.hostop ≠ none) (hu : s.inUse = true)
    (h : s.issue p r = .next t) : t = State.respond p (.error .busy) { s with caller := p } := by
  cases hd : decode r with
  | error e =>
    rw [issue_of_illegal s hd] at h
    obtain ⟨_, _, _, _, hnone, _⟩ := whenHolder_next h
    exact absurd hnone ho
  | ok i =>
    rw [issue_of_decode s hd] at h
    by_cases hopen : i = .openSession
    · subst hopen
      rw [exec_open_of_open (exec_next_ready h) hu] at h
      exact (Host.Outcome.next.inj h).symm
    · obtain ⟨_, _, _, hnone, _⟩ := exec_next_issuable h hopen
      exact absurd hnone ho

/-- F3 with the clear still pending waits (R143, R144). -/
theorem hostStep_of_stalled {s : State} (h : Stalled s) : s.hostStep = .next s := by
  obtain ⟨_, ⟨p, saved, ho, hp⟩ | ⟨p, saved, ho, hp⟩⟩ := h
  · rw [hostStep_clrTx ho, State.clearTxStep, if_pos hp]
  · rw [hostStep_clrRx ho, State.clearRxStep, if_pos hp]

theorem Unlatched.stallKept_action {s t : State} (h : Unlatched s) (hs : Stalled s) (hm : s.nextMove ≠ .clockUp)
    (ha : Action s t) : StallKept s t := by
  have hclk : s.clockRunning = false := hs.1
  have hrefl : StallKept s s.afterChoice := ⟨rfl, rfl, rfl, rfl, Nat.le_refl _, Nat.le_refl _, [], by simp, nofun⟩
  cases ha with
  | request p r call _ hi =>
    have ho := hs.hostop_ne_none
    obtain rfl := issue_over_flight (s := { s.afterChoice with call := call }) ho (h.inUse_of_hostop ho) hi
    exact ⟨rfl, rfl, rfl, rfl, Nat.le_refl _, Nat.le_refl _, [(p, .error .busy)], rfl, by simp [Response.error]⟩
  | host _ hi =>
    rw [hostStep_of_stalled (s := s.afterChoice) hs] at hi
    exact Host.Outcome.next.inj hi ▸ hrefl
  | engine _ =>
    have htx := engineStep_txfifo_ge s.afterChoice
    have hrx := engineStep_rxfifo_le s.afterChoice
    rw [engineStep_frame]
    exact ⟨rfl, rfl, rfl, rfl, htx, hrx, [], (List.append_nil _).symm, nofun⟩
  | txTick => rw [State.txTick, if_neg (by simp [State.txTickEnabled, hclk])]; exact hrefl
  | rxTick => rw [State.rxTick, if_neg (by simp [State.rxTickEnabled, hclk])]; exact hrefl
  | clearTx => rw [State.clearTxFifo, if_neg (by simp [hclk])]; exact hrefl
  | clearRx => rw [State.clearRxFifo, if_neg (by simp [hclk])]; exact hrefl
  | outside call clock hclock =>
    have hdown : clock = s.clockRunning := by
      rw [hclk]
      exact Bool.eq_false_iff.mpr fun hup => (hclock hup).elim (by simp [hclk]) hm
    exact ⟨hdown, rfl, rfl, rfl, Nat.le_refl _, Nat.le_refl _, [], (List.append_nil _).symm, nofun⟩

/-- No action looks at the moves after its own. -/
theorem Action.sched {s t : State} (ha : Action s t) : t.sched = s.sched.tail := by
  cases ha with
  | request p r call _ h => rw [issue_frame h]; rfl
  | host _ h => rw [hostStep_frame h]; rfl
  | engine _ => rw [engineStep_frame]; rfl
  | txTick => rw [txTick_frame]; rfl
  | rxTick => rw [rxTick_frame]; rfl
  | clearTx => rw [clearTxFifo_frame]; rfl
  | clearRx => rw [clearRxFifo_frame]; rfl
  | outside call clock _ => rfl

/-- A step of a stalled block: the session is open, so that there is no teardown. -/
theorem step_of_stalled {s u : State} (hinv : s.Inv) (hp : s.power = .ready) (hs : Stalled s)
    (hm : s.nextMove ≠ .clockUp) (h : step s = .next u) :
    u.power = .ready ∧ u.sched = s.sched.tail ∧ StallKept s u := by
  have hun := Unlatched.of_inv hinv
  obtain ⟨t, _, hmove, rfl⟩ := step_next h
  have ht : t.power = .ready := by
    by_contra hne
    obtain ⟨hzero, _⟩ := move_leaves_ready (s := s.afterChoice) hp hne hmove
    obtain ⟨_, husage, _⟩ := hinv.session
    rw [hun.inUse_of_hostop hs.hostop_ne_none] at husage
    exact absurd (husage.symm.trans hzero) nofun
  have ha := move_action hp ht hmove
  obtain ⟨hclk, hop, htp, hrp, htx, hrx, hresp⟩ := hun.stallKept_action hs hm ha
  exact ⟨ht, ha.sched, hclk, hop, htp, hrp, htx, hrx, hresp⟩

/-- Every run of a stalled block without `clockUp`. -/
theorem run_of_stalled (moves : List Move) {s t : State} (hinv : s.Inv) (hp : s.power = .ready) (hs : Stalled s)
    (hsched : s.sched = moves) (hm : Move.clockUp ∉ moves)
    (h : Sys2Proof.core.run moves.length s = .next t) : StallKept s t := by
  induction moves generalizing s with
  | nil => exact Host.Outcome.next.inj h ▸ .refl s
  | cons m rest ih =>
    obtain ⟨hfirst, hrest⟩ : Move.clockUp ≠ m ∧ Move.clockUp ∉ rest := by simpa using hm
    have hnext : s.nextMove = m := by simp [State.nextMove, hsched]
    rw [List.length_cons, run_succ] at h
    cases hstep : step s with
    | fault f => rw [hstep] at h; cases h
    | refused r => rw [hstep] at h; cases h
    | next u =>
      rw [hstep] at h
      obtain ⟨hpu, hsu, hkept⟩ := step_of_stalled hinv hp hs (hnext ▸ hfirst.symm) hstep
      rw [hsched, List.tail_cons] at hsu
      exact hkept.trans (ih (stepKeepsInvariant s u hinv hstep) hpu (hkept.stalled hs) hsu hrest h)

theorem Inv_withSched {s : State} (h : s.Inv) (l : List Move) : (s.withSched l).Inv :=
  ⟨h.config, h.storage, h.counters, h.session, h.service, h.host, h.latch⟩

/-- Settles O23: from the first state on the block is stalled. -/
theorem clearNeverReturnsWithoutClock : Obligations.ClearNeverReturnsWithoutClock := by
  intro s t p saved moves hinv hp hclk hm h
  have kept (hs : Stalled s) : StallKept s t := by
    obtain ⟨hc, hop, htp, hrp, htx, hrx, hresp⟩ :=
      run_of_stalled moves (s := s.withSched moves) (Inv_withSched hinv moves) hp hs rfl hm h
    exact ⟨hc, hop, htp, hrp, htx, hrx, hresp⟩
  have busy (hk : StallKept s t) :
      ∀ e ∈ t.responses.drop s.responses.length, e.1 = p → e.2.status = .busy := by
    obtain ⟨new, hr, hnew⟩ := hk.responses
    rw [hr, List.drop_left]
    exact fun e he _ => hnew e he
  refine ⟨fun ho hpend => ?_, fun ho hpend => ?_⟩
  · have hk := kept ⟨hclk, .inl ⟨p, saved, ho, hpend⟩⟩
    exact ⟨hk.hostop.trans ho, hk.txclr.trans hpend, hk.txfifo, busy hk⟩
  · have hk := kept ⟨hclk, .inr ⟨p, saved, ho, hpend⟩⟩
    exact ⟨hk.hostop.trans ho, hk.rxclr.trans hpend, hk.rxfifo, busy hk⟩

end Sys2Proof.Laws
end

section
/-! PROOF. Progress in fair runs (70_reset_and_hazards.md R216). One rule of weak fairness, with what each claim needs:
a move that stays enabled until the goal is reached, and reaches it when it is taken. -/

namespace Sys2Proof.Laws

open Sys2Proof
open Sys2Proof.Machine

/-! ### Runs -/

/-- An infinite run of a block that stays ready, weakly fair and from a state of the invariant. -/
structure FairRun (run : Nat → State) (moves : Nat → Move) : Prop where
  isRun : IsRun run moves
  fair : WeaklyFair run moves
  start : (run 0).Inv
  ready : ∀ k, (run k).power = .ready

section

variable {run : Nat → State} {moves : Nat → Move}

/-- A step of a run is the move named, with the latches after it. -/
theorem FairRun.next (h : FairRun run moves) (k : Nat) :
    ∃ t, ((run k).withSched []).act (moves k) = .next t ∧ run (k + 1) = t.settle :=
  settleOutcome_next ((step_sched (s := (run k).withSched [moves k]) rfl).symm.trans (h.isRun k))

/-- A move with one outcome takes the run there. -/
theorem FairRun.next_eq (h : FairRun run moves) {k : Nat} {m : Move} {t : State} (hm : moves k = m)
    (ht : ((run k).withSched []).act m = .next t) : run (k + 1) = t.settle := by
  obtain ⟨u, hu, hnext⟩ := h.next k
  rw [hm, ht] at hu
  rw [hnext, Host.Outcome.next.inj hu]

theorem FairRun.action (h : FairRun run moves) (k : Nat) :
    ∃ t, Action ((run k).withSched [moves k]) t ∧ run (k + 1) = t.settle :=
  step_action (s := (run k).withSched [moves k]) (h.ready k) (h.ready (k + 1)) (h.isRun k)

theorem FairRun.inv (h : FairRun run moves) (k : Nat) : (run k).Inv := by
  induction k with
  | zero => exact h.start
  | succ k ih => exact stepKeepsInvariant _ _ (Inv_withSched ih _) (h.isRun k)

theorem FairRun.cfg (h : FairRun run moves) (k : Nat) : (run (k + 1)).cfg = (run k).cfg :=
  (parametersAndOpaqueRegistersKeepTheirValue _ _ (h.isRun k)).1

/-- The rule of weak fairness: while `P` holds the move is enabled, `P` lasts until `Q`, and the move gives `Q`. -/
theorem FairRun.leadsTo (h : FairRun run moves) {m : Move} (hm : m ∈ fairMoves) {P Q : State → Prop} {n : Nat} (hP : P (run n))
    (henabled : ∀ k, n ≤ k → P (run k) → (run k).enabled m)
    (hlasts : ∀ k, P (run k) → moves k ≠ m → P (run (k + 1)) ∨ Q (run (k + 1)))
    (hgoal : ∀ k, n ≤ k → P (run k) → moves k = m → Q (run (k + 1))) : ∃ k, n ≤ k ∧ Q (run k) := by
  by_contra hno
  have never (k : Nat) (hk : n ≤ k) : ¬ Q (run k) := fun hq => hno ⟨k, hk, hq⟩
  have always (k : Nat) (hk : n ≤ k) : P (run k) := by
    induction k, hk using Nat.le_induction with
    | base => exact hP
    | succ k hk ih =>
      have hnever := never (k + 1) (Nat.le_succ_of_le hk)
      by_cases hmove : moves k = m
      · exact absurd (hgoal k hk ih hmove) hnever
      · exact (hlasts k ih hmove).resolve_right hnever
  obtain ⟨k, hk, hmove⟩ := h.fair m hm n fun k hk => henabled k hk (always k hk)
  exact never (k + 1) (Nat.le_succ_of_le hk) (hgoal k hk (always k hk) hmove)

/-- A move is enabled where it has an outcome that is not the state itself. -/
theorem enabled_of_next {m : Move} {s t : State} (ht : s.act m = .next t) (hne : t ≠ s) : s.enabled m :=
  fun h => hne (Host.Outcome.next.inj (ht.symm.trans h))

/-! ### Requested clears -/

theorem act_clearTx {s : State} (hp : s.power = .ready) (hclk : s.clockRunning = true)
    (hpend : s.txclrPending = true) : s.act .clearTx = .next { s with txfifo := [], txclrPending := false } := by
  rw [act_move _ (by simp [hp]), State.move, clearTxFifo_of_enabled hp hclk hpend]

theorem act_clearRx {s : State} (hp : s.power = .ready) (hclk : s.clockRunning = true)
    (hpend : s.rxclrPending = true) : s.act .clearRx = .next { s with rxfifo := [], rxclrPending := false } := by
  rw [act_move _ (by simp [hp]), State.move, clearRxFifo_of_enabled hp hclk hpend]

theorem FairRun.clearTx_performed (h : FairRun run moves) {n : Nat}
    (hclk : ∀ k, n ≤ k → (run k).clockRunning = true) (hpend : (run n).txclrPending = true) :
    ∃ k, n ≤ k ∧ (run k).txclrPending = false := by
  refine h.leadsTo (m := .clearTx) (by simp [fairMoves]) (P := fun s => s.txclrPending = true)
    (Q := fun s => s.txclrPending = false) hpend (fun k hk hk' => ?_) (fun k _ _ => ?_) fun k hk hk' hm => ?_
  · exact enabled_of_next (act_clearTx (h.ready k) (hclk k hk) hk') fun he => absurd (he ▸ hk') nofun
  · exact Bool.eq_false_or_eq_true _
  · rw [h.next_eq hm (act_clearTx (s := (run k).withSched []) (h.ready k) (hclk k hk) hk')]
    rfl

theorem FairRun.clearRx_performed (h : FairRun run moves) {n : Nat}
    (hclk : ∀ k, n ≤ k → (run k).clockRunning = true) (hpend : (run n).rxclrPending = true) :
    ∃ k, n ≤ k ∧ (run k).rxclrPending = false := by
  refine h.leadsTo (m := .clearRx) (by simp [fairMoves]) (P := fun s => s.rxclrPending = true)
    (Q := fun s => s.rxclrPending = false) hpend (fun k hk hk' => ?_) (fun k _ _ => ?_) fun k hk hk' hm => ?_
  · exact enabled_of_next (act_clearRx (h.ready k) (hclk k hk) hk') fun he => absurd (he ▸ hk') nofun
  · exact Bool.eq_false_or_eq_true _
  · rw [h.next_eq hm (act_clearRx (s := (run k).withSched []) (h.ready k) (hclk k hk) hk')]
    rfl

/-! ### The service routine -/

/-- Only the engine moves its control position and writes the flags. -/
theorem Action.eng {s t : State} (ha : Action s t) :
    (t.eng = s.eng ∧ t.inService = s.inService ∧ t.irqLine = s.irqLine) ∨
      (s.nextMove = .engine ∧ t = s.afterChoice.engineStep) := by
  cases ha with
  | request p r call _ h => rw [issue_frame h]; exact .inl ⟨rfl, rfl, rfl⟩
  | host _ h => rw [hostStep_frame h]; exact .inl ⟨rfl, rfl, rfl⟩
  | engine hm => exact .inr ⟨hm, rfl⟩
  | txTick => rw [txTick_frame]; exact .inl ⟨rfl, rfl, rfl⟩
  | rxTick => rw [rxTick_frame]; exact .inl ⟨rfl, rfl, rfl⟩
  | clearTx => rw [clearTxFifo_frame]; exact .inl ⟨rfl, rfl, rfl⟩
  | clearRx => rw [clearRxFifo_frame]; exact .inl ⟨rfl, rfl, rfl⟩
  | outside call clock _ => exact .inl ⟨rfl, rfl, rfl⟩

/-- The engine's step within a run. -/
theorem FairRun.next_engine (h : FairRun run moves) {k : Nat} (hm : moves k = .engine) :
    run (k + 1) = ((run k).engineStep.withSched []).settle :=
  h.next_eq hm ((act_engine (s := (run k).withSched []) (h.ready k)).trans (congrArg _ (engineStep_withSched _ _)))

/-- Every other step of a run leaves the engine where it is. -/
theorem FairRun.eng_of_other (h : FairRun run moves) {k : Nat} (hm : moves k ≠ .engine) :
    (run (k + 1)).eng = (run k).eng ∧ (run (k + 1)).inService = (run k).inService ∧
      ((run k).irqLine = true → (run (k + 1)).irqLine = true) := by
  obtain ⟨t, ha, hnext⟩ := h.action k
  obtain ⟨heng, hserv, hline⟩ | ⟨hengine, _⟩ := ha.eng
  · rw [hnext]
    exact ⟨heng, hserv, fun hup => irqLine_settle (hline.trans hup)⟩
  · exact absurd hengine hm

/-- Idle, with signalling unmasked. -/
def Returned (s : State) : Prop := s.eng = ⟨.idle, 0⟩ ∧ s.inService = false

/-- A running routine comes nearer to its end. -/
theorem FairRun.engine_advances (h : FairRun run moves) {n : Nat} (hph : (run n).eng.phase ≠ .idle) :
    ∃ k, n ≤ k ∧ stepsLeft (run k).cfg.batchLimit (run k).eng < stepsLeft (run n).cfg.batchLimit (run n).eng ∧
      ((run k).eng.phase = .idle → Returned (run k)) := by
  refine h.leadsTo (m := .engine) (by simp [fairMoves])
    (P := fun s => s.eng = (run n).eng ∧ s.cfg = (run n).cfg)
    (Q := fun s => stepsLeft s.cfg.batchLimit s.eng < stepsLeft (run n).cfg.batchLimit (run n).eng ∧
      (s.eng.phase = .idle → Returned s)) ⟨rfl, rfl⟩ ?_ ?_ ?_
  · rintro k _ ⟨heng, _⟩
    refine enabled_of_next (act_engine (h.ready k)) fun he => ?_
    have hless := (engineStep_advances (s := run k) (heng ▸ hph)).1
    rw [he] at hless
    exact Nat.lt_irrefl _ hless
  · rintro k ⟨heng, hcfg⟩ hm
    exact .inl ⟨(h.eng_of_other hm).1.trans heng, (h.cfg k).trans hcfg⟩
  · rintro k _ ⟨heng, hcfg⟩ hm
    obtain ⟨hless, hend⟩ := engineStep_advances (s := run k) (heng ▸ hph)
    rw [h.next_engine hm]
    refine ⟨?_, hend⟩
    show stepsLeft (run k).engineStep.cfg.batchLimit (run k).engineStep.eng < _
    rwa [(engineStep_keeps _).1, ← hcfg, ← heng]

theorem FairRun.returns (h : FairRun run moves) (d : Nat) {n : Nat} (hph : (run n).eng.phase ≠ .idle)
    (hd : stepsLeft (run n).cfg.batchLimit (run n).eng ≤ d) : ∃ k, n ≤ k ∧ Returned (run k) := by
  induction d generalizing n with
  | zero =>
    obtain ⟨_, _, hless, _⟩ := h.engine_advances hph
    exact absurd hless (by omega)
  | succ d ih =>
    obtain ⟨k, hk, hless, hend⟩ := h.engine_advances hph
    by_cases hidle : (run k).eng.phase = .idle
    · exact ⟨k, hk, hend hidle⟩
    · obtain ⟨j, hj, hret⟩ := ih hidle (by omega)
      exact ⟨j, hk.trans hj, hret⟩

/-- A pending invocation of an open session whose routine is not running. -/
def Pending (s : State) : Prop := s.svcPending = true ∧ s.inService = false ∧ s.inUse = true

/-- Under the invariant a pending invocation can be entered, and the line is up (R22). -/
theorem Pending.invocable {s : State} (h : Pending s) (hinv : s.Inv) :
    s.eng.phase = .idle ∧ s.isrRegistered = true ∧ s.irqLine = true := by
  obtain ⟨hsvc, hserv, hu⟩ := h
  obtain ⟨hidle, _, _, _, hpend⟩ := hinv.service
  have hph := hidle.mpr hserv
  have hisr : s.isrRegistered = true := hinv.session.1.trans hu
  exact ⟨hph, hisr, (hpend hisr (by rw [hph]; rfl)).symm.trans hsvc⟩

/-- Under the invariant an idle engine of an open session has its invocation pending while the line is up. -/
theorem pending_of_irqLine {s : State} (hinv : s.Inv) (hline : s.irqLine = true) (hserv : s.inService = false)
    (hu : s.inUse = true) : Pending s := by
  obtain ⟨hidle, _, _, _, hpend⟩ := hinv.service
  have hph := hidle.mpr hserv
  exact ⟨(hpend (hinv.session.1.trans hu) (by rw [hph]; rfl)).trans hline, hserv, hu⟩

theorem FairRun.invocation_starts (h : FairRun run moves) {n : Nat} (hsvc : (run n).svcPending = true)
    (hserv : (run n).inService = false) :
    ∃ k, n ≤ k ∧ ((run k).inService = true ∨ (run k).inUse = false) := by
  cases hu : (run n).inUse with
  | false => exact ⟨n, Nat.le_refl n, .inr hu⟩
  | true =>
    have enters (k : Nat) (hk : Pending (run k)) : (run k).engineStep = (run k).enterService := by
      obtain ⟨hph, hisr, _⟩ := hk.invocable (h.inv k)
      exact enterService_of_invocable hph (h.ready k) hisr hk.1 hk.2.1
    refine h.leadsTo (m := .engine) (by simp [fairMoves]) (P := Pending)
      (Q := fun s => s.inService = true ∨ s.inUse = false) ⟨hsvc, hserv, hu⟩ (fun k _ hk => ?_) (fun k hk hm => ?_)
      fun k _ hk hm => ?_
    · refine enabled_of_next (act_engine (h.ready k)) fun he => ?_
      have hrun : (run k).inService = true := by rw [← he, enters k hk]; rfl
      exact absurd (hk.2.1.symm.trans hrun) nofun
    · obtain ⟨_, hserv', hline⟩ := h.eng_of_other hm
      obtain ⟨_, _, hup⟩ := hk.invocable (h.inv k)
      cases hu' : (run (k + 1)).inUse with
      | false => exact .inr (.inr rfl)
      | true => exact .inl (pending_of_irqLine (h.inv (k + 1)) (hline hup) (hserv'.trans hk.2.1) hu')
    · rw [h.next_engine hm, enters k hk]
      exact .inl rfl

/-! ### The operation in flight -/

/-- A step of an operation in flight, F3 apart, is a step on. -/
theorem hostStep_moves_on {s t : State} {op : HostOp} (ho : s.hostop = some op)
    (hf3 : ∀ saved, op.progress ≠ .clrTx .f3 saved ∧ op.progress ≠ .clrRx .f3 saved)
    (h : s.hostStep = .next t) : t.hostop ≠ some op := by
  obtain ⟨p, g⟩ := op
  cases g with
  | read w got =>
    cases (hostStep_read ho).symm.trans h
    obtain ⟨_, e⟩ | ⟨_, _, e⟩ := readIter_cases s p w got <;> rw [e]
    · nofun
    · simp
  | write payload k =>
    cases (hostStep_write ho).symm.trans h
    obtain ⟨_, e⟩ | ⟨_, _, ⟨_, e⟩ | ⟨_, e⟩⟩ := writeIter_cases s p payload k <;> rw [e]
    · nofun
    · simp
    · simp
  | clrTx next saved =>
    obtain ⟨rfl, _, rfl⟩ | ⟨rfl, _, rfl⟩ | ⟨rfl, _, rfl⟩ | ⟨_, rfl⟩ :=
      clearTxStep_cases ((hostStep_clrTx ho).symm.trans h)
    · simp
    · exact absurd rfl (hf3 saved).1
    · exact absurd rfl (hf3 saved).1
    · nofun
  | clrRx next saved =>
    obtain ⟨rfl, _, rfl⟩ | ⟨rfl, _, rfl⟩ | ⟨rfl, _, rfl⟩ | ⟨_, rfl⟩ :=
      clearRxStep_cases ((hostStep_clrRx ho).symm.trans h)
    · simp
    · exact absurd rfl (hf3 saved).2
    · exact absurd rfl (hf3 saved).2
    · nofun

theorem FairRun.operation_moves_on (h : FairRun run moves) {n : Nat} {op : HostOp} (ho : (run n).hostop = some op)
    (hf3 : ∀ saved, op.progress ≠ .clrTx .f3 saved ∧ op.progress ≠ .clrRx .f3 saved) :
    ∃ k, n ≤ k ∧ (run k).hostop ≠ some op := by
  refine h.leadsTo (m := .host) (by simp [fairMoves]) (P := fun s => s.hostop = some op)
    (Q := fun s => s.hostop ≠ some op) ho (fun k _ hk same => ?_) (fun k _ _ => em _) fun k _ hk hm => ?_
  · exact hostStep_moves_on hk hf3 ((act_host (h.ready k)).symm.trans same) hk
  · obtain ⟨t, ht, hnext⟩ := h.next k
    rw [hm, act_host (s := (run k).withSched []) (h.ready k)] at ht
    have hon : t.hostop ≠ some op := hostStep_moves_on (s := (run k).withSched []) hk hf3 ht
    rw [hnext]
    exact hon

end

/-- Settles O57: the four claims are those of a fair run. -/
theorem fairRunsMakeProgress : Obligations.FairRunsMakeProgress := by
  intro run moves n hrun hfair hinv hp
  have h : FairRun run moves := ⟨hrun, hfair, hinv, hp⟩
  exact ⟨fun hclk => ⟨h.clearTx_performed hclk, h.clearRx_performed hclk⟩,
    fun hph => h.returns _ hph (Nat.le_refl _), h.invocation_starts, fun _ => h.operation_moves_on⟩

end Sys2Proof.Laws
end
